-- ==== Sys2Proof/Word.lean ====
section
/-! DEFINITION. The word types of the block: bytes of the data RAM, the 16-bit values of the CRC
unit and of control words, and the 32-bit registers (spec/00_scope.md R10). -/

namespace Sys2Proof

/-- One byte: a RAM location, an IMM8 field, a byte of a COBS stream. -/
abbrev Byte := BitVec 8

/-- A 16-bit value: a CRC, or the value of a control word (R171). -/
abbrev Half := BitVec 16

/-- A 32-bit value: a register, a command word, a channel value. -/
abbrev Word := BitVec 32

end Sys2Proof
end

