-- ==== Sys2Proof/Config.lean ====
section
/-! DEFINITION. What an implementation of the block fixes: the parameters RAM_SIZE and BASE that
spec/00_scope.md R7 leaves OPEN. "The model takes these parameters as arguments. None of them can
change while the block runs." They are plain data that every state carries and no step writes
(log 1), so a statement about every state is a statement about every value of them. -/

namespace Sys2Proof

/-- The implementation parameters of R7. -/
structure Params where
  /-- RAM_SIZE: the number of bytes in the data RAM, 1 to 65536 (R7, R60). -/
  ramSize : Nat
  /-- BASE: the host address where the register window starts (R7, R61). -/
  base : Nat
  deriving DecidableEq, Repr

/-- The parameters `State.reset` carries. DESIGN CHOICE (log 1), unsafe: the spec leaves both OPEN;
4096 is the RAM_SIZE that every example of spec/95_test_vectors.md assumes. -/
def Params.ofExamples : Params := { ramSize := 4096, base := 0 }

end Sys2Proof
end

