-- ==== Sys2Proof/Syntax.lean ====
section
/-! DEFINITION. The command set of spec/30_encoding.md: the 17 commands of R85 as one inductive, the
mnemonics, the row form of the opcode map, the reasons a word is illegal (R86), and the assembler
line of R88 as data. -/

namespace Sys2Proof

/-- The 17 mnemonics of R85. -/
inductive Mnemonic where
  | nop | softReset | clrErr
  | crcInit | crcByte | crcSpan
  | encStart | encPull
  | decReset | decPush
  | frmBuildShort | frmBuildWrite | frmBuildNormal
  | frmVerifyShort | frmVerifyWrite | frmVerifyNormal
  | frmWord
  deriving DecidableEq, Repr

/-- A command of R85 with its fields. The types admit exactly the operands the encoding admits: a
flag is F[0], an immediate is the 8-bit IMM8 (R81, R82), so every value is well formed. -/
inductive Instr where
  /-- NOP (R200). -/
  | nop
  /-- SOFT_RESET (R201). -/
  | softReset
  /-- CLR_ERR (R202). -/
  | clrErr
  /-- CRC_INIT (R102). -/
  | crcInit
  /-- CRC_BYTE b (R103), b = IMM8. -/
  | crcByte (b : Byte)
  /-- CRC_SPAN, or CRC_SPAN.I when the flag I = F[0] is set (R104). -/
  | crcSpan (i : Bool)
  /-- ENC_START (R123). -/
  | encStart
  /-- ENC_PULL (R124). -/
  | encPull
  /-- DEC_RESET (R142). -/
  | decReset
  /-- DEC_PUSH b (R143), b = IMM8. -/
  | decPush (b : Byte)
  /-- FRM_BUILD_SHORT, .C when the flag C = F[0] is set (R175). -/
  | frmBuildShort (c : Bool)
  /-- FRM_BUILD_WRITE, .C when the flag C = F[0] is set (R176). -/
  | frmBuildWrite (c : Bool)
  /-- FRM_BUILD_NORMAL, .C when the flag C = F[0] is set (R177). -/
  | frmBuildNormal (c : Bool)
  /-- FRM_VERIFY_SHORT (R179). -/
  | frmVerifyShort
  /-- FRM_VERIFY_WRITE (R180). -/
  | frmVerifyWrite
  /-- FRM_VERIFY_NORMAL (R181). -/
  | frmVerifyNormal
  /-- FRM_WORD j (R184), j = IMM8. -/
  | frmWord (j : Byte)
  deriving DecidableEq, Repr

/-- One row of the opcode map of R85: a word w selects the row when `w &&& mask = pattern`. -/
structure OpcodeRow where
  mnemonic : Mnemonic
  pattern : Word
  mask : Word
  deriving DecidableEq, Repr

/-- Why a command word is illegal (the cases of R86). The block reports all of them alike, as
ERR_ILLEGAL; the name serves the reader. -/
inductive Illegal where
  /-- "any OP not in the table". -/
  | unassignedOp
  /-- "a non-zero RSV field". -/
  | reservedField
  /-- "any F bit other than F[0] of CRC_SPAN and FRM_BUILD_*". -/
  | flagBit
  /-- "a non-zero IMM8 on a command that does not use IMM8". -/
  | immediate
  deriving DecidableEq, Repr

/-- The suffixes of R88: `.I` of CRC_SPAN and `.C` of FRM_BUILD_*. -/
inductive Suffix where
  | restart
  | withCrc
  deriving DecidableEq, Repr

/-- A line of assembler text (R88) as data: a mnemonic, a suffix if one is written, and the operand
as the number written. Such a line may be ill formed: see WellFormed.lean. The characters of the
text are not modelled (log 12). -/
structure AsmLine where
  mnemonic : Mnemonic
  suffix : Option Suffix
  operand : Option Nat
  deriving DecidableEq, Repr

end Sys2Proof
end

