-- ==== Sys2Proof/WellFormed.lean ====
section
/-! DEFINITION. Well-formedness checks. An `Instr` cannot be built ill formed (its fields have the
widths of R81); what can be ill formed is an assembler line, which R88 says an assembler rejects, and
a choice of the parameters, which R7 bounds. -/

namespace Sys2Proof

/-- The suffix a mnemonic may carry (R88): `.I` on CRC_SPAN, `.C` on FRM_BUILD_*, none elsewhere. -/
def Mnemonic.suffix : Mnemonic → Option Suffix
  | .crcSpan => some .restart
  | .frmBuildShort | .frmBuildWrite | .frmBuildNormal => some .withCrc
  | .nop | .softReset | .clrErr | .crcInit | .crcByte | .encStart | .encPull | .decReset | .decPush
  | .frmVerifyShort | .frmVerifyWrite | .frmVerifyNormal | .frmWord => none

/-- Whether a mnemonic takes the IMM8 operand (R81, R88). -/
def Mnemonic.takesOperand : Mnemonic → Bool
  | .crcByte | .decPush | .frmWord => true
  | .nop | .softReset | .clrErr | .crcInit | .crcSpan | .encStart | .encPull | .decReset
  | .frmBuildShort | .frmBuildWrite | .frmBuildNormal
  | .frmVerifyShort | .frmVerifyWrite | .frmVerifyNormal => false

/-- "a suffix on a command that has no F[0]" is rejected (R88); so is the other family's suffix. -/
def AsmLine.suffixOk (l : AsmLine) : Bool :=
  l.suffix.isNone || l.suffix == l.mnemonic.suffix

/-- "an operand on a command that has no IMM8" is rejected (R88); the IMM8 commands take "one
operand", so a line of theirs without one is rejected too. -/
def AsmLine.operandPresenceOk (l : AsmLine) : Bool :=
  l.operand.isSome == l.mnemonic.takesOperand

/-- "Text with an operand outside 0..255" is rejected (R88). -/
def AsmLine.operandRangeOk (l : AsmLine) : Bool :=
  l.operand.all fun n => decide (n < 256)

/-- The lines that are commands (R88). -/
def AsmLine.wellFormed (l : AsmLine) : Bool :=
  l.suffixOk && l.operandPresenceOk && l.operandRangeOk

/-- RAM_SIZE is at least 1 (R7). -/
def Params.ramNonempty (p : Params) : Bool := decide (1 ≤ p.ramSize)

/-- RAM_SIZE is at most 65536, so that the RAM fits its window (R7, R61). -/
def Params.ramFitsWindow (p : Params) : Bool := decide (p.ramSize ≤ 65536)

/-- The parameter values R7 allows. -/
def Params.wellFormed (p : Params) : Bool := p.ramNonempty && p.ramFitsWindow

end Sys2Proof
end

