-- ==== Sys2Proof/Decode.lean ====
section
/-! DEFINITION. The command word (spec/30_encoding.md): the opcode map of R85, the total decoder of
R86 and R87, the encoder, and the assembler of R88. -/

namespace Sys2Proof

/-- The opcode map, as R85 prints it. -/
def opcodeTable : List OpcodeRow :=
  [ { mnemonic := .nop,             pattern := 0x00000000, mask := 0xFFFFFFFF },
    { mnemonic := .softReset,       pattern := 0x01000000, mask := 0xFFFFFFFF },
    { mnemonic := .clrErr,          pattern := 0x02000000, mask := 0xFFFFFFFF },
    { mnemonic := .crcInit,         pattern := 0x10000000, mask := 0xFFFFFFFF },
    { mnemonic := .crcByte,         pattern := 0x11000000, mask := 0xFFFFFF00 },
    { mnemonic := .crcSpan,         pattern := 0x12000000, mask := 0xFFFEFFFF },
    { mnemonic := .encStart,        pattern := 0x20000000, mask := 0xFFFFFFFF },
    { mnemonic := .encPull,         pattern := 0x21000000, mask := 0xFFFFFFFF },
    { mnemonic := .decReset,        pattern := 0x30000000, mask := 0xFFFFFFFF },
    { mnemonic := .decPush,         pattern := 0x31000000, mask := 0xFFFFFF00 },
    { mnemonic := .frmBuildShort,   pattern := 0x40000000, mask := 0xFFFEFFFF },
    { mnemonic := .frmBuildWrite,   pattern := 0x41000000, mask := 0xFFFEFFFF },
    { mnemonic := .frmBuildNormal,  pattern := 0x42000000, mask := 0xFFFEFFFF },
    { mnemonic := .frmVerifyShort,  pattern := 0x48000000, mask := 0xFFFFFFFF },
    { mnemonic := .frmVerifyWrite,  pattern := 0x49000000, mask := 0xFFFFFFFF },
    { mnemonic := .frmVerifyNormal, pattern := 0x4A000000, mask := 0xFFFFFFFF },
    { mnemonic := .frmWord,         pattern := 0x50000000, mask := 0xFFFFFF00 } ]

/-- The OP column of R85. -/
def Mnemonic.op : Mnemonic → Byte
  | .nop => 0x00
  | .softReset => 0x01
  | .clrErr => 0x02
  | .crcInit => 0x10
  | .crcByte => 0x11
  | .crcSpan => 0x12
  | .encStart => 0x20
  | .encPull => 0x21
  | .decReset => 0x30
  | .decPush => 0x31
  | .frmBuildShort => 0x40
  | .frmBuildWrite => 0x41
  | .frmBuildNormal => 0x42
  | .frmVerifyShort => 0x48
  | .frmVerifyWrite => 0x49
  | .frmVerifyNormal => 0x4A
  | .frmWord => 0x50

/-- The mnemonic an OP value names, none where R85 lists no such OP. -/
def Mnemonic.ofOp (op : Byte) : Option Mnemonic :=
  match op.toNat with
  | 0x00 => some .nop
  | 0x01 => some .softReset
  | 0x02 => some .clrErr
  | 0x10 => some .crcInit
  | 0x11 => some .crcByte
  | 0x12 => some .crcSpan
  | 0x20 => some .encStart
  | 0x21 => some .encPull
  | 0x30 => some .decReset
  | 0x31 => some .decPush
  | 0x40 => some .frmBuildShort
  | 0x41 => some .frmBuildWrite
  | 0x42 => some .frmBuildNormal
  | 0x48 => some .frmVerifyShort
  | 0x49 => some .frmVerifyWrite
  | 0x4A => some .frmVerifyNormal
  | 0x50 => some .frmWord
  | _ => none

/-- OP, bits 31:24 of a command word (R81). -/
def opField (w : Word) : Byte := w.extractLsb' 24 8

/-- F, bits 23:16 of a command word (R81). -/
def flagField (w : Word) : Byte := w.extractLsb' 16 8

/-- RSV, bits 15:8 of a command word (R81). -/
def reservedField (w : Word) : Byte := w.extractLsb' 8 8

/-- IMM8, bits 7:0 of a command word (R81). -/
def immField (w : Word) : Byte := w.extractLsb' 0 8

/-- The F bits a command may set: F[0] of CRC_SPAN and FRM_BUILD_*, none elsewhere (R81). -/
def Mnemonic.flagMask (m : Mnemonic) : Byte := if m.suffix.isSome then 0x01 else 0x00

/-- The IMM8 bits a command may set: all for CRC_BYTE, DEC_PUSH and FRM_WORD, none elsewhere (R81). -/
def Mnemonic.immMask (m : Mnemonic) : Byte := if m.takesOperand then 0xFF else 0x00

/-- The command a mnemonic makes of F[0] and IMM8 (R82). -/
def Mnemonic.instr (m : Mnemonic) (flag : Bool) (imm : Byte) : Instr :=
  match m with
  | .nop => .nop
  | .softReset => .softReset
  | .clrErr => .clrErr
  | .crcInit => .crcInit
  | .crcByte => .crcByte imm
  | .crcSpan => .crcSpan flag
  | .encStart => .encStart
  | .encPull => .encPull
  | .decReset => .decReset
  | .decPush => .decPush imm
  | .frmBuildShort => .frmBuildShort flag
  | .frmBuildWrite => .frmBuildWrite flag
  | .frmBuildNormal => .frmBuildNormal flag
  | .frmVerifyShort => .frmVerifyShort
  | .frmVerifyWrite => .frmVerifyWrite
  | .frmVerifyNormal => .frmVerifyNormal
  | .frmWord => .frmWord imm

/-- The decoder (R85 to R87): a total function of the 32 bits of the word and nothing else. Where
several reasons of R86 apply, which one is named is a DESIGN CHOICE that nothing observes (log 13). -/
def decode (w : Word) : Except Illegal Instr :=
  match Mnemonic.ofOp (opField w) with
  | none => .error .unassignedOp
  | some m =>
    if reservedField w ≠ 0 then .error .reservedField
    else if flagField w &&& ~~~m.flagMask ≠ 0 then .error .flagBit
    else if immField w &&& ~~~m.immMask ≠ 0 then .error .immediate
    else .ok (m.instr ((flagField w).getLsbD 0) (immField w))

/-- The instruction the decoder reads from a row of the opcode table, its `nbits` bits numbered as
the table numbers them (one 32-bit word, bit 0 the least significant; R80). -/
def decodeTableWord (nbits w : Nat) : Option Instr :=
  (decode (BitVec.ofNat 32 (w % 2 ^ nbits))).toOption

/-- The mnemonic of a command. -/
def Instr.mnemonic : Instr → Mnemonic
  | .nop => .nop
  | .softReset => .softReset
  | .clrErr => .clrErr
  | .crcInit => .crcInit
  | .crcByte _ => .crcByte
  | .crcSpan _ => .crcSpan
  | .encStart => .encStart
  | .encPull => .encPull
  | .decReset => .decReset
  | .decPush _ => .decPush
  | .frmBuildShort _ => .frmBuildShort
  | .frmBuildWrite _ => .frmBuildWrite
  | .frmBuildNormal _ => .frmBuildNormal
  | .frmVerifyShort => .frmVerifyShort
  | .frmVerifyWrite => .frmVerifyWrite
  | .frmVerifyNormal => .frmVerifyNormal
  | .frmWord _ => .frmWord

/-- The flag F[0] of a command, clear where it has none (R81). -/
def Instr.flag : Instr → Bool
  | .crcSpan i => i
  | .frmBuildShort c | .frmBuildWrite c | .frmBuildNormal c => c
  | .nop | .softReset | .clrErr | .crcInit | .crcByte _ | .encStart | .encPull | .decReset
  | .decPush _ | .frmVerifyShort | .frmVerifyWrite | .frmVerifyNormal | .frmWord _ => false

/-- The IMM8 of a command, zero where it has none (R81). -/
def Instr.imm : Instr → Byte
  | .crcByte b | .decPush b | .frmWord b => b
  | .nop | .softReset | .clrErr | .crcInit | .crcSpan _ | .encStart | .encPull | .decReset
  | .frmBuildShort _ | .frmBuildWrite _ | .frmBuildNormal _
  | .frmVerifyShort | .frmVerifyWrite | .frmVerifyNormal => 0

/-- A flag bit as the F field. -/
def flagByte (f : Bool) : Byte := if f then 0x01 else 0x00

/-- The command word of a command: OP, F, RSV = 0 and IMM8 from the most significant byte down (R81). -/
def encode (i : Instr) : Word :=
  i.mnemonic.op ++ flagByte i.flag ++ (0x00 : Byte) ++ i.imm

/-- The assembler of R88: "The suffix sets F[0] = 1, and its absence means F[0] = 0. The operand goes
into IMM8." Ill-formed lines are rejected. -/
def assemble (l : AsmLine) : Option Word :=
  if l.wellFormed then
    some (encode (l.mnemonic.instr l.suffix.isSome (BitVec.ofNat 8 (l.operand.getD 0))))
  else none

/-- The assembler line of a command (R88). -/
def Instr.toAsm (i : Instr) : AsmLine :=
  { mnemonic := i.mnemonic
    suffix := if i.flag then i.mnemonic.suffix else none
    operand := if i.mnemonic.takesOperand then some i.imm.toNat else none }

end Sys2Proof
end

