-- ==== Sys2Proof/Machine/State.lean ====
section
/-! DEFINITION. The state of the block as plain data: every register of spec/10_state.md R23 by its
fields, the data RAM (spec/20_memory.md R60), and, as the model's own fields, the implementation
parameters, the host accesses still to come and the bus's last answer. Bits that no rule names are
reserved and read 0 (R23); they have no storage here (log 9). -/

namespace Sys2Proof.Machine

/-- The result codes of STATUS.CODE (spec/60_exceptions.md R211). "No other value occurs." -/
inductive Code where
  | ok | encByte | encEnd | decStart | decData | decComplete
  | errIllegal | errConfig | errBounds | errCrc | errMalformed | errOverflow | errOvfEnd
  deriving DecidableEq, Repr

/-- ENC_STATE.ST (R28, R122): the kind of the next output of ENC_PULL. -/
inductive EncSt where
  | done | code | data | term
  deriving DecidableEq, Repr

/-- DEC_STATE.ST (R32): Idle, Block(CNT) or PartialBlock(CNT). The value 3 never occurs (U8, log 9). -/
inductive DecSt where
  | idle | block | pblock
  deriving DecidableEq, Repr

/-- The registers of the window, in the order of R23. -/
inductive Reg where
  | cmd | status | cfg
  | arg0 | arg1 | arg2 | arg3
  | crcAcc
  | encState | encPtr | encRem | encOut
  | decState | decBase | decCap | decLen
  | frmLen | frmCrc | frmResp | frmWval | frmSval
  deriving DecidableEq, Repr

/-- The host access column of R23. -/
inductive RegAccess where
  | writeOnly | readOnly | readWrite
  deriving DecidableEq, Repr

/-- One access of the host (R61 to R64): its host address, its width in bits and, for a write, the
data; a write narrower than 32 bits drives the low bits of `value` (log 6). -/
inductive Access where
  | read (addr bits : Nat)
  | write (addr bits : Nat) (value : Word)
  deriving DecidableEq, Repr

/-- How an access ended (log 4): none has happened yet, it was performed, it got a bus error (R221),
or its address is outside the block's 0x20000 bytes, so that the block did not answer (R61, log 5). -/
inductive BusStatus where
  | none | okay | busError | unclaimed
  deriving DecidableEq, Repr

/-- "A model shows it as the access's result" (R221): the status of the host's most recent access
and the data a read returned (0 for a write, for a bus error and for an unclaimed access). -/
structure BusResult where
  status : BusStatus
  data : Word
  deriving DecidableEq, Repr

/-- The data RAM as (address, byte) pairs in canonical form: addresses strictly rising, no byte equal
to what an unlisted address reads as (Machine/Ops.lean). -/
abbrev Memory := List Host.Cell

/-- The state of the block. -/
structure State where
  /-- RAM_SIZE and BASE (R7): parameters, written by no step (log 1). The model's own field. -/
  params : Params
  /-- STATUS.CODE (R25). -/
  code : Code
  /-- STATUS.ERR, sticky (R25, R213). -/
  err : Bool
  /-- STATUS.FRM_VALID (R25). -/
  frmValid : Bool
  /-- CFG.WIDTH (R24). -/
  cfgWidth : BitVec 3
  /-- CFG.CHANNELS (R24). -/
  cfgChannels : Byte
  /-- ARG0 (R26). -/
  arg0 : Word
  /-- ARG1 (R26). -/
  arg1 : Word
  /-- ARG2 (R26). -/
  arg2 : Word
  /-- ARG3 (R26). -/
  arg3 : Word
  /-- CRC_ACC bits 15:0 (R27). -/
  crcAcc : Half
  /-- ENC_STATE.ST (R28). -/
  encSt : EncSt
  /-- ENC_STATE.BLK (R28). -/
  encBlk : Byte
  /-- ENC_STATE.ZERO (R28). -/
  encZero : Bool
  /-- ENC_PTR (R29). -/
  encPtr : Word
  /-- ENC_REM (R29). -/
  encRem : Word
  /-- ENC_OUT bits 7:0 (R30). -/
  encOut : Byte
  /-- DEC_STATE.ST (R32). -/
  decSt : DecSt
  /-- DEC_STATE.CNT (R32). -/
  decCnt : Byte
  /-- DEC_STATE.OVF (R32). -/
  decOvf : Bool
  /-- DEC_BASE (R33). -/
  decBase : Word
  /-- DEC_CAP (R33). -/
  decCap : Word
  /-- DEC_LEN (R34). -/
  decLen : Word
  /-- FRM_LEN (R36). -/
  frmLen : Word
  /-- FRM_CRC bits 15:0 (R37). -/
  frmCrc : Half
  /-- FRM_RESP bits 15:0 (R38). -/
  frmResp : Half
  /-- FRM_WVAL bits 15:0 (R39). -/
  frmWval : Half
  /-- FRM_SVAL (R39). -/
  frmSval : Word
  /-- The data RAM (R60). -/
  ram : Memory
  /-- The host accesses still to come, the next one first (R22 makes their sequence a parameter of
  the model). The model's own field (log 3). -/
  host : List Access
  /-- The result of the host's most recent access (R221). The model's own field (log 4). -/
  resp : BusResult
  deriving DecidableEq, Repr

/-- Why the machine stops. No run from reset reaches a fault: see Safety.lean. -/
inductive Fault where
  /-- Raised by the RAM primitives MemRead and MemWrite (R13) at an address that is not below
  RAM_SIZE, a location that does not exist (R60). "no primitive is called out of range" (R13): it
  takes a state that breaks the invariants R31 or R35, so it is safe (log 8). -/
  | ramOutOfRange (addr : Nat)
  deriving DecidableEq, Repr

/-- Why the machine refuses. -/
inductive Refusal where
  /-- Raised by `exec` for a command that has no meaning yet; safe. No arm uses it: all 17 commands
  of R85 are modelled. -/
  | notModelled (mnemonic : String)
  deriving DecidableEq, Repr

/-- The outcome of one step of the block. -/
abbrev Result := Host.Outcome State Fault Refusal

/-- The state right after a power-on reset of a block with the parameters `p` whose RAM holds `ram`
(spec/70_reset_and_hazards.md R230, R231): "every RAM byte's value is unspecified" (R232), so any
`ram` will do. -/
def State.powerOn (p : Params) (ram : Memory) : State :=
  { params := p
    code := .ok, err := false, frmValid := false
    cfgWidth := 0, cfgChannels := 0
    arg0 := 0, arg1 := 0, arg2 := 0, arg3 := 0
    crcAcc := 0xFFFF
    encSt := .done, encBlk := 0, encZero := false, encPtr := 0, encRem := 0, encOut := 0
    decSt := .idle, decCnt := 0, decOvf := false, decBase := 0, decCap := 0, decLen := 0
    frmLen := 0, frmCrc := 0, frmResp := 0, frmWval := 0, frmSval := 0
    ram := ram
    host := []
    resp := { status := .none, data := 0 } }

/-- The machine right after reset: the register values are those of R231; the parameters (log 1) and
the RAM contents (log 2) are DESIGN CHOICES where the spec leaves them open. -/
def State.reset : State := State.powerOn Params.ofExamples []

end Sys2Proof.Machine
end

