-- ==== Sys2Proof/Machine/Flags.lean ====
section
/-! DEFINITION. The status bits of the block: the result codes (spec/60_exceptions.md R211), the
sticky error flag (R213), and the packed views of STATUS, ENC_STATE and DEC_STATE
(spec/10_state.md R25, R28, R32). The block has no arithmetic flags (R41). -/

namespace Sys2Proof.Machine

/-- The code column of R211. -/
def Code.toByte : Code → Byte
  | .ok => 0x00
  | .encByte => 0x01
  | .encEnd => 0x02
  | .decStart => 0x03
  | .decData => 0x04
  | .decComplete => 0x05
  | .errIllegal => 0x80
  | .errConfig => 0x81
  | .errBounds => 0x82
  | .errCrc => 0x83
  | .errMalformed => 0x84
  | .errOverflow => 0x85
  | .errOvfEnd => 0x86

/-- "Bit 7 set means an error" (R211). -/
def Code.isError (c : Code) : Bool := c.toByte.getLsbD 7

/-- The ST values of R28. -/
def EncSt.toBits : EncSt → BitVec 2
  | .done => 0
  | .code => 1
  | .data => 2
  | .term => 3

/-- The ST values of R32. -/
def DecSt.toBits : DecSt → BitVec 2
  | .idle => 0
  | .block => 1
  | .pblock => 2

/-- STATUS as the host reads it (R25): CODE in 7:0, ERR in 8, FRM_VALID in 9. -/
def State.statusWord (s : State) : Word :=
  (0 : BitVec 22) ++ BitVec.ofBool s.frmValid ++ BitVec.ofBool s.err ++ s.code.toByte

/-- CFG as the host reads it (R24): WIDTH in 2:0, CHANNELS in 15:8. -/
def State.cfgWord (s : State) : Word :=
  (0 : BitVec 16) ++ s.cfgChannels ++ (0 : BitVec 5) ++ s.cfgWidth

/-- ENC_STATE as the host reads it (R28): ST in 1:0, BLK in 15:8, ZERO in 16. -/
def State.encStateWord (s : State) : Word :=
  (0 : BitVec 15) ++ BitVec.ofBool s.encZero ++ s.encBlk ++ (0 : BitVec 6) ++ s.encSt.toBits

/-- DEC_STATE as the host reads it (R32): ST in 1:0, CNT in 15:8, OVF in 16. -/
def State.decStateWord (s : State) : Word :=
  (0 : BitVec 15) ++ BitVec.ofBool s.decOvf ++ s.decCnt ++ (0 : BitVec 6) ++ s.decSt.toBits

end Sys2Proof.Machine
end

