-- ==== Sys2Proof/Machine/Ops.lean ====
section
/-! DEFINITION. The shared operations: the data RAM (spec/20_memory.md R60, R68, R69), completing a
command with a status code and raising an error (spec/00_scope.md R13, spec/60_exceptions.md R210).
The block has no traps: raising an error is its whole exception model, and there is nothing to
return from (R210, R218). -/

namespace Sys2Proof.Machine

/-! ### The data RAM -/

/-- What a RAM byte that nothing has written reads as. The spec calls it "any value" (R232, U1).
DESIGN CHOICE (log 2), unsafe: 0x00; every other contents is a `Memory` that lists it. -/
def unwrittenByte : Byte := 0x00

/-- The byte a memory holds at an address. -/
def Memory.read : Memory → Nat → Byte
  | [], _ => unwrittenByte
  | (a, v) :: rest, x => if x = a then v else Memory.read rest x

/-- Enter a cell where its address belongs. -/
def Memory.enter : Memory → Nat → Byte → Memory
  | [], x, v => [(x, v)]
  | (a, b) :: rest, x, v =>
    if x < a then (x, v) :: (a, b) :: rest else (a, b) :: Memory.enter rest x v

/-- Write a byte, keeping the canonical form: the old cell goes, and the new one is listed unless it
holds what an unlisted address reads as. -/
def Memory.write (m : Memory) (x : Nat) (v : Byte) : Memory :=
  let kept := m.filter fun c => c.1 != x
  if v = unwrittenByte then kept else Memory.enter kept x v

/-- The canonical form, as a check: addresses strictly rising, no cell that says what is read
anyway. -/
def Memory.wf : Memory → Bool
  | [] => true
  | [(_, v)] => v != unwrittenByte
  | (a, v) :: (b, w) :: rest =>
    v != unwrittenByte && decide (a < b) && Memory.wf ((b, w) :: rest)

/-- The bytes at `a, a+1, …, a+n-1` (the sequence Mem[a .. a+n) of R14). -/
def Memory.bytes (m : Memory) (a : Nat) : Nat → List Byte
  | 0 => []
  | n + 1 => m.read a :: Memory.bytes m (a + 1) n

/-- The byte of the data RAM at an address, as an observer of the state reads it. -/
def State.ramByte (s : State) (a : Nat) : Byte := s.ram.read a

/-! ### MemRead and MemWrite (R13) -/

/-- `MemRead(a, 1)`: "for a < RAM_SIZE". -/
def State.memRead (s : State) (a : Nat) : Except Fault Byte :=
  if a < s.params.ramSize then .ok (s.ram.read a) else .error (.ramOutOfRange a)

/-- `MemWrite(a, 1, v)`: "for a < RAM_SIZE". -/
def State.memWrite (s : State) (a : Nat) (v : Byte) : Except Fault State :=
  if a < s.params.ramSize then .ok { s with ram := s.ram.write a v }
  else .error (.ramOutOfRange a)

/-- Go on with a value, or stop with the fault. -/
def orFault {α : Type} (x : Except Fault α) (k : α → Result) : Result :=
  match x with
  | .error f => .fault f
  | .ok v => k v

/-- Read `n` bytes from `a` up, one MemRead each, in ascending order (R69). -/
def State.memReadSpan (s : State) (a : Nat) : Nat → Except Fault (List Byte)
  | 0 => .ok []
  | n + 1 =>
    match s.memRead a with
    | .error f => .error f
    | .ok v =>
      match State.memReadSpan s (a + 1) n with
      | .error f => .error f
      | .ok vs => .ok (v :: vs)

/-- Write bytes from `a` up, one MemWrite each, in ascending order (R69). -/
def State.memWriteSpan (s : State) (a : Nat) : List Byte → Except Fault State
  | [] => .ok s
  | v :: vs =>
    match s.memWrite a v with
    | .error f => .error f
    | .ok t => State.memWriteSpan t (a + 1) vs

/-- The range check of R68: `a + n ≤ RAM_SIZE`, in unbounded arithmetic. -/
def State.inRam (s : State) (a n : Nat) : Bool := decide (a + n ≤ s.params.ramSize)

/-! ### Completing a command -/

/-- `status <- c` (R13): CODE takes the code, and ERR is set when the code is an error; a success
code leaves ERR alone (R213). -/
def State.complete (s : State) (c : Code) : State :=
  { s with code := c, err := s.err || c.isError }

/-- Complete a command normally. -/
def State.finish (s : State) (c : Code) : Result := .next (s.complete c)

/-- `raise c` (R13, R210): the command ends with the error code and no state but the status changes.
What else a rule names at its `raise`, its command writes before. -/
def State.raise (s : State) (c : Code) : Result := .next (s.complete c)

end Sys2Proof.Machine
end

