-- ==== Sys2Proof/Machine/Operands.lean ====
section
/-! DEFINITION. Operands and byte layout: addresses and lengths (spec/30_encoding.md R83), the word
width of the frame codec (spec/44_frame_codec.md R170), control words (R171) and channel words
(R172, R186). -/

namespace Sys2Proof.Machine

/-- An address operand: "the full 32-bit ARG value, read as an unsigned natural number" (R83). -/
def State.argAddr (s : State) : Nat := s.arg0.toNat

/-- A length or capacity operand: ARG1 as an unsigned natural number (R83). -/
def State.argLen (s : State) : Nat := s.arg1.toNat

/-- The first word value of a frame build: ARG2[15:0] (R26, R83). -/
def State.argCommand (s : State) : Half := s.arg2.extractLsb' 0 16

/-- The second word value of a frame build: ARG3[15:0] (R26, R83). -/
def State.argValue (s : State) : Half := s.arg3.extractLsb' 0 16

/-- The word width W in bytes, where CFG.WIDTH is legal: 2, 3 or 4 (R24, R170). -/
def State.frameWidth (s : State) : Option Nat :=
  if s.cfgWidth = 2 ∨ s.cfgWidth = 3 ∨ s.cfgWidth = 4 then some s.cfgWidth.toNat else none

/-- The channel count N (R24, R173). -/
def State.channels (s : State) : Nat := s.cfgChannels.toNat

/-- Two bytes as a 16-bit value, the first the more significant (R67 point 1). -/
def beHalf (hi lo : Byte) : Half := hi ++ lo

/-- `word_bytes(v, W)` of R171: the value big-endian in the first two bytes, zeros after them. -/
def wordBytes (width : Nat) (v : Half) : List Byte :=
  v.extractLsb' 8 8 :: v.extractLsb' 0 8 :: List.replicate (width - 2) 0x00

/-- `word16(w)` of R171: the first two bytes; the others are not examined. -/
def word16 (w : List Byte) : Half := beHalf (w.getD 0 0) (w.getD 1 0)

/-- `chan32(w)` of R186: left-justify the W bytes in 32 bits, then shift right arithmetically by
(4 - W) * 8. -/
def chan32 (width : Nat) (w : List Byte) : Word :=
  let third : Byte := if 3 ≤ width then w.getD 2 0 else 0x00
  let fourth : Byte := if width = 4 then w.getD 3 0 else 0x00
  let t : Word := w.getD 0 0 ++ w.getD 1 0 ++ third ++ fourth
  t.sshiftRight ((4 - width) * 8)

end Sys2Proof.Machine
end

