-- ==== Sys2Proof/Machine/Control.lean ====
section
/-! DEFINITION. The control commands (spec/45_control.md): NOP, SOFT_RESET, CLR_ERR. -/

namespace Sys2Proof.Machine

/-- NOP (R200): `status <- OK`. -/
def execNop (s : State) : Result := s.finish .ok

/-- SOFT_RESET (R201): every register of R23 takes its reset value, that of the power-on reset
(R230); the RAM is kept (R232), and so is what is not the block's state: its parameters, the host's
accesses and the bus's answer. -/
def execSoftReset (s : State) : Result :=
  .next { State.powerOn s.params s.ram with host := s.host, resp := s.resp }

/-- CLR_ERR (R202): `STATUS.ERR <- 0; status <- OK`. -/
def execClrErr (s : State) : Result := State.finish { s with err := false } .ok

end Sys2Proof.Machine
end

