-- ==== Sys2Proof/Machine/Crc.lean ====
section
/-! DEFINITION. The CRC-16 generator (spec/41_crc.md): the byte step R100, the CRC of a span R101,
and the commands CRC_INIT, CRC_BYTE and CRC_SPAN. -/

namespace Sys2Proof.Machine

/-- The initial value of the CRC (R101). -/
def crcInitial : Half := 0xFFFF

/-- The CRC polynomial (R100). -/
def crcPoly : Half := 0x1021

/-- One of the eight rounds of R100: shift left, and XOR with the polynomial if the top bit was set. -/
def crcRound (acc : Half) : Half :=
  if acc.msb then (acc <<< 1) ^^^ crcPoly else acc <<< 1

/-- `n` rounds. -/
def crcRounds : Nat → Half → Half
  | 0, acc => acc
  | n + 1, acc => crcRounds n (crcRound acc)

/-- `crc_step(acc, b)` of R100: XOR the byte into the high byte, then eight rounds. -/
def crcStep (acc : Half) (b : Byte) : Half :=
  crcRounds 8 (acc ^^^ (b.setWidth 16 <<< 8))

/-- The left-to-right fold of the byte step over a sequence (R101, R104). -/
def crcFold (acc : Half) (bytes : List Byte) : Half := bytes.foldl crcStep acc

/-- `crc16(s)` of R101: no final XOR. -/
def crc16 (bytes : List Byte) : Half := crcFold crcInitial bytes

/-- CRC_INIT (R102). -/
def execCrcInit (s : State) : Result := State.finish { s with crcAcc := crcInitial } .ok

/-- CRC_BYTE b (R103). -/
def execCrcByte (b : Byte) (s : State) : Result :=
  State.finish { s with crcAcc := crcStep s.crcAcc b } .ok

/-- CRC_SPAN, with `i` CRC_SPAN.I (R104). -/
def execCrcSpan (i : Bool) (s : State) : Result :=
  if s.inRam s.argAddr s.argLen then
    orFault (s.memReadSpan s.argAddr s.argLen) fun bytes =>
      State.finish { s with crcAcc := crcFold (if i then crcInitial else s.crcAcc) bytes } .ok
  else s.raise .errBounds

end Sys2Proof.Machine
end

