-- ==== Sys2Proof/Machine/Decoder.lean ====
section
/-! DEFINITION. The byte-stuffing (COBS) decoder (spec/43_cobs_decoder.md): DEC_RESET (R142) and
DEC_PUSH (R143) with the transition table R140, emit R141 and the actions R144 to R149. -/

namespace Sys2Proof.Machine

/-- DEC_RESET (R142). -/
def execDecReset (s : State) : Result :=
  if s.inRam s.argAddr s.argLen then
    State.finish
      { s with decBase := s.arg0, decCap := s.arg1, decSt := .idle, decCnt := 0, decOvf := false,
               decLen := 0 } .ok
  else s.raise .errBounds

/-- A code byte b enters PBLOCK(254) when b = 0xFF, else BLOCK(b - 1) (R140). -/
def State.enterBlock (s : State) (b : Byte) : State :=
  if b = 0xFF then { s with decSt := .pblock, decCnt := 254 }
  else { s with decSt := .block, decCnt := b - 1 }

/-- emit(v) (R141): write one decoded byte and report DEC_DATA, or drop it, set OVF and report
ERR_OVERFLOW. -/
def State.emit (s : State) (v : Byte) : Except Fault (State × Code) :=
  if s.decOvf = false ∧ s.decLen < s.decCap then
    match s.memWrite (s.decBase.toNat + s.decLen.toNat) v with
    | .error f => .error f
    | .ok t => .ok ({ t with decLen := s.decLen + 1 }, .decData)
  else .ok ({ s with decOvf := true }, .errOverflow)

/-- The decoder back in IDLE with nothing pending (R145, R148): ST = IDLE, CNT = 0, OVF = 0. -/
def State.toIdle (s : State) : State := { s with decSt := .idle, decCnt := 0, decOvf := false }

/-- Frame start (R144): DEC_LEN and OVF are cleared and the block of code byte b is entered. -/
def State.frameStart (s : State) (b : Byte) : Result :=
  (State.enterBlock { s with decLen := 0, decOvf := false } b).finish .decStart

/-- Frame end (R145): complete, or the overflow end of a frame that lost bytes. -/
def State.frameEnd (s : State) : Result :=
  if s.decOvf then State.raise { s.toIdle with decLen := 0 } .errOvfEnd
  else s.toIdle.finish .decComplete

/-- Malformed frame (R148): a premature 0x00. -/
def State.malformed (s : State) : Result := State.raise { s.toIdle with decLen := 0 } .errMalformed

/-- Literal byte (R149): emit it and count it off, keeping ST. -/
def State.literal (s : State) (b : Byte) : Result :=
  orFault (s.emit b) fun r => State.finish { r.1 with decCnt := s.decCnt - 1 } r.2

/-- The next block after a short one (R146): emit the implicit zero, then take b as a code byte. -/
def State.afterShort (s : State) (b : Byte) : Result :=
  orFault (s.emit 0x00) fun r => (r.1.enterBlock b).finish r.2

/-- The next block after a full one (R147): no implicit zero. -/
def State.afterFull (s : State) (b : Byte) : Result := (s.enterBlock b).finish .ok

/-- DEC_PUSH b (R143): the row of R140 that matches (ST, CNT, b). -/
def execDecPush (b : Byte) (s : State) : Result :=
  match s.decSt with
  | .idle => if b = 0x00 then s.finish .ok else s.frameStart b
  | .block =>
    if s.decCnt = 0 then (if b = 0x00 then s.frameEnd else s.afterShort b)
    else (if b = 0x00 then s.malformed else s.literal b)
  | .pblock =>
    if s.decCnt = 0 then (if b = 0x00 then s.frameEnd else s.afterFull b)
    else (if b = 0x00 then s.malformed else s.literal b)

end Sys2Proof.Machine
end

