-- ==== Sys2Proof/Machine/Encoder.lean ====
section
/-! DEFINITION. The byte-stuffing (COBS) encoder (spec/42_cobs_encoder.md): the encoding as a pure
function (R120) and the cursor machine that emits it, ENC_START (R123), ENC_PULL (R124) and
after_block (R125). -/

namespace Sys2Proof.Machine

/-- The longest block of data bytes (R120: "blocks of at most 254 bytes"). -/
def cobsMaxBlock : Nat := 254

/-- The run of a payload's first block: its bytes up to the first 0x00 or up to `m` bytes (R120's p
or m). -/
def cobsRun : Nat → List Byte → List Byte
  | 0, _ => []
  | _ + 1, [] => []
  | m + 1, b :: rest => if b = 0x00 then [] else b :: cobsRun m rest

/-- The blocks of `cobs_encode` (R120), without the terminator; `fuel` bounds the number of blocks
after the first. -/
def cobsBlocks : Nat → List Byte → List Byte
  | 0, p =>
    let run := cobsRun cobsMaxBlock p
    BitVec.ofNat 8 (run.length + 1) :: run
  | fuel + 1, p =>
    let run := cobsRun cobsMaxBlock p
    let block := BitVec.ofNat 8 (run.length + 1) :: run
    match p.drop run.length with
    | [] => block
    | b :: rest =>
      if run.length < cobsMaxBlock then block ++ cobsBlocks fuel rest
      else block ++ cobsBlocks fuel (b :: rest)

/-- `cobs_encode(P)` (R120). A payload of n bytes has at most n + 1 blocks: every block but the last
consumes a byte. -/
def cobsEncode (payload : List Byte) : List Byte := cobsBlocks payload.length payload ++ [0x00]

/-- ENC_START (R123): load the cursor; no RAM is read. -/
def execEncStart (s : State) : Result :=
  if s.inRam s.argAddr s.argLen then
    State.finish
      { s with encPtr := s.arg0, encRem := s.arg1, encSt := .code, encBlk := 0, encZero := false } .ok
  else s.raise .errBounds

/-- The code scan of R124: the least k below `m` with `MemRead(a + k, 1) = 0x00`, and true; or `m`
and false. "reads ascending, stops at the first zero". -/
def State.scanZero (s : State) (a : Nat) : Nat → Except Fault (Nat × Bool)
  | 0 => .ok (0, false)
  | m + 1 =>
    match s.memRead a with
    | .error f => .error f
    | .ok b =>
      if b = 0x00 then .ok (0, true)
      else
        match State.scanZero s (a + 1) m with
        | .error f => .error f
        | .ok (k, z) => .ok (k + 1, z)

/-- after_block (R125): consume the elided zero if there is one, and pick the next state. -/
def State.afterBlock (s : State) : State :=
  if s.encZero then
    { s with encBlk := 0, encPtr := s.encPtr + 1, encRem := s.encRem - 1, encZero := false,
             encSt := .code }
  else if s.encRem = 0 then { s with encBlk := 0, encSt := .term }
  else { s with encBlk := 0, encSt := .code }

/-- "if ENC_STATE.BLK = 0: after_block()" (R124). -/
def State.endBlock (s : State) : State := if s.encBlk = 0 then s.afterBlock else s

/-- The CODE case of ENC_PULL once the scan has answered (R124): emit the code byte. -/
def State.pullCode (s : State) (l : Nat) (z : Bool) : State :=
  if l = 0 then
    State.afterBlock { s with encZero := z, encOut := BitVec.ofNat 8 (l + 1), encBlk := 0 }
  else
    { s with encZero := z, encOut := BitVec.ofNat 8 (l + 1), encBlk := BitVec.ofNat 8 l,
             encSt := .data }

/-- The DATA case of ENC_PULL once the byte is read (R124): emit it and advance the cursor. -/
def State.pullData (s : State) (b : Byte) : State :=
  State.endBlock
    { s with encOut := b, encPtr := s.encPtr + 1, encRem := s.encRem - 1, encBlk := s.encBlk - 1 }

/-- ENC_PULL (R124). -/
def execEncPull (s : State) : Result :=
  match s.encSt with
  | .done => s.finish .encEnd
  | .term => State.finish { s with encOut := 0x00, encSt := .done } .encByte
  | .code =>
    orFault (s.scanZero s.encPtr.toNat (min cobsMaxBlock s.encRem.toNat)) fun found =>
      (s.pullCode found.1 found.2).finish .encByte
  | .data =>
    orFault (s.memRead s.encPtr.toNat) fun b => (s.pullData b).finish .encByte

end Sys2Proof.Machine
end

