-- ==== Sys2Proof/Machine/Frame.lean ====
section
/-! DEFINITION. The frame word codec (spec/44_frame_codec.md): the shared build body R178 and verify
body R182, the build commands R175 to R177, the verify commands R179 to R181 and FRM_WORD R184. -/

namespace Sys2Proof.Machine

/-- The data portion of a frame: its control words one after another (R171, R178). -/
def frameData (width : Nat) (words : List Half) : List Byte := words.flatMap (wordBytes width)

/-- The tail of a short or write-one frame (R178): the CRC word if C = 1, else nothing. -/
def optionalTail (width : Nat) (c : Bool) (crc : Half) : List Byte :=
  if c then wordBytes width crc else []

/-- The tail of a normal frame (R178): the CRC slot is always present, zero when C = 0. -/
def alwaysTail (width : Nat) (c : Bool) (crc : Half) : List Byte :=
  wordBytes width (if c then crc else 0x0000)

/-- The bytes of a frame (R178) for a shape's tail. -/
def frameBytes (tail : Nat → Bool → Half → List Byte) (width : Nat) (c : Bool) (words : List Half) :
    List Byte :=
  frameData width words ++ tail width c (crc16 (frameData width words))

/-- build(words, shape) of R178. -/
def State.frameBuild (s : State) (tail : Nat → Bool → Half → List Byte) (c : Bool)
    (words : List Half) : Result :=
  match s.frameWidth with
  | none => s.raise .errConfig
  | some w =>
    let frame := frameBytes tail w c words
    if s.inRam s.argAddr frame.length then
      orFault (s.memWriteSpan s.argAddr frame) fun t =>
        State.finish
          { t with frmLen := BitVec.ofNat 32 frame.length, frmCrc := crc16 (frameData w words) } .ok
    else s.raise .errBounds

/-- The words of a short frame: the command word (R175). -/
def State.shortWords (s : State) : List Half := [s.argCommand]

/-- The words of a write-one frame: the command word and the value word (R176). -/
def State.writeWords (s : State) : List Half := [s.argCommand, s.argValue]

/-- The words of a host-built normal frame: the command word and N zero channel words (R177). -/
def State.normalWords (s : State) : List Half :=
  s.argCommand :: List.replicate s.channels 0x0000

/-- FRM_BUILD_SHORT, with `c` FRM_BUILD_SHORT.C (R175). -/
def execFrmBuildShort (c : Bool) (s : State) : Result := s.frameBuild optionalTail c s.shortWords

/-- FRM_BUILD_WRITE, with `c` FRM_BUILD_WRITE.C (R176). -/
def execFrmBuildWrite (c : Bool) (s : State) : Result := s.frameBuild optionalTail c s.writeWords

/-- FRM_BUILD_NORMAL, with `c` FRM_BUILD_NORMAL.C (R177). -/
def execFrmBuildNormal (c : Bool) (s : State) : Result := s.frameBuild alwaysTail c s.normalWords

/-- What every failing verify writes beside the status: FRM_VALID and FRM_RESP are cleared (R182). -/
def State.rejectFrame (s : State) : State := { s with frmValid := false, frmResp := 0 }

/-- The results every completed check of a frame reports (R182): FRM_CRC and FRM_LEN. -/
def State.measureFrame (s : State) (len : Nat) (data : List Byte) : State :=
  { s with frmCrc := crc16 data, frmLen := BitVec.ofNat 32 len }

/-- A passing verify (R182): FRM_RESP is the value of word 0, FRM_VALID is set. -/
def State.acceptFrame (s : State) (data : List Byte) : State :=
  { s with frmResp := word16 data, frmValid := true }

/-- The comparison of R182: the CRC of the data portion against the trailing word's value. -/
def State.judgeFrame (s : State) (data trailing : List Byte) : Result :=
  if crc16 data = word16 trailing then (s.acceptFrame data).finish .ok
  else s.rejectFrame.raise .errCrc

/-- verify(K) of R182 over the K-word frame at ARG0. Only the first two bytes of the trailing word
are read and compared. -/
def State.frameVerify (s : State) (k : Nat) : Result :=
  match s.frameWidth with
  | none => s.rejectFrame.raise .errConfig
  | some w =>
    if s.inRam s.argAddr (k * w) then
      orFault (s.memReadSpan s.argAddr ((k - 1) * w)) fun data =>
        orFault (s.memReadSpan (s.argAddr + (k - 1) * w) 2) fun trailing =>
          (s.measureFrame (k * w) data).judgeFrame data trailing
    else s.rejectFrame.raise .errBounds

/-- FRM_VERIFY_SHORT (R179): two words. -/
def execFrmVerifyShort (s : State) : Result := s.frameVerify 2

/-- FRM_VERIFY_WRITE (R180): three words. -/
def execFrmVerifyWrite (s : State) : Result := s.frameVerify 3

/-- FRM_VERIFY_NORMAL (R181): N + 2 words. -/
def execFrmVerifyNormal (s : State) : Result := s.frameVerify (s.channels + 2)

/-- FRM_WORD j (R184): word j of the frame at ARG0, raw, as a control value and as a channel value. -/
def execFrmWord (j : Byte) (s : State) : Result :=
  match s.frameWidth with
  | none => s.raise .errConfig
  | some w =>
    let a := s.argAddr + j.toNat * w
    if s.inRam a w then
      orFault (s.memReadSpan a w) fun bytes =>
        State.finish { s with frmWval := word16 bytes, frmSval := chan32 w bytes } .ok
    else s.raise .errBounds

end Sys2Proof.Machine
end

