-- ==== Sys2Proof/Machine/Dispatch.lean ====
section
/-! DEFINITION. One arm per command of spec/30_encoding.md R85: the command's effect on the state,
one atomic step (spec/20_memory.md R62). -/

namespace Sys2Proof.Machine

def exec (i : Instr) (s : State) : Host.Outcome State Fault Refusal :=
  match i with
  | .nop => Sys2Proof.Machine.execNop s
  | .softReset => Sys2Proof.Machine.execSoftReset s
  | .clrErr => Sys2Proof.Machine.execClrErr s
  | .crcInit => Sys2Proof.Machine.execCrcInit s
  | .crcByte b => Sys2Proof.Machine.execCrcByte b s
  | .crcSpan r => Sys2Proof.Machine.execCrcSpan r s
  | .encStart => Sys2Proof.Machine.execEncStart s
  | .encPull => Sys2Proof.Machine.execEncPull s
  | .decReset => Sys2Proof.Machine.execDecReset s
  | .decPush b => Sys2Proof.Machine.execDecPush b s
  | .frmBuildShort c => Sys2Proof.Machine.execFrmBuildShort c s
  | .frmBuildWrite c => Sys2Proof.Machine.execFrmBuildWrite c s
  | .frmBuildNormal c => Sys2Proof.Machine.execFrmBuildNormal c s
  | .frmVerifyShort => Sys2Proof.Machine.execFrmVerifyShort s
  | .frmVerifyWrite => Sys2Proof.Machine.execFrmVerifyWrite s
  | .frmVerifyNormal => Sys2Proof.Machine.execFrmVerifyNormal s
  | .frmWord j => Sys2Proof.Machine.execFrmWord j s

end Sys2Proof.Machine
end

