-- ==== Sys2Proof/Machine/RegMap.lean ====
section
/-! DEFINITION. The register window (spec/10_state.md R23): each register's offset, its access right,
what a read returns and what a write stores (spec/20_memory.md R65). -/

namespace Sys2Proof.Machine

/-- The registers of the window, in the order of R23. -/
def Reg.all : List Reg :=
  [.cmd, .status, .cfg, .arg0, .arg1, .arg2, .arg3, .crcAcc, .encState, .encPtr, .encRem, .encOut,
   .decState, .decBase, .decCap, .decLen, .frmLen, .frmCrc, .frmResp, .frmWval, .frmSval]

/-- The offset column of R23. -/
def Reg.offset : Reg → Nat
  | .cmd => 0x000
  | .status => 0x004
  | .cfg => 0x008
  | .arg0 => 0x010
  | .arg1 => 0x014
  | .arg2 => 0x018
  | .arg3 => 0x01C
  | .crcAcc => 0x020
  | .encState => 0x030
  | .encPtr => 0x034
  | .encRem => 0x038
  | .encOut => 0x03C
  | .decState => 0x040
  | .decBase => 0x044
  | .decCap => 0x048
  | .decLen => 0x04C
  | .frmLen => 0x050
  | .frmCrc => 0x054
  | .frmResp => 0x058
  | .frmWval => 0x05C
  | .frmSval => 0x060

/-- The host access column of R23. -/
def Reg.access : Reg → RegAccess
  | .cmd => .writeOnly
  | .cfg | .arg0 | .arg1 | .arg2 | .arg3 | .crcAcc => .readWrite
  | .status | .encState | .encPtr | .encRem | .encOut | .decState | .decBase | .decCap | .decLen
  | .frmLen | .frmCrc | .frmResp | .frmWval | .frmSval => .readOnly

/-- The register at an offset, none at an unlisted one (R61, R65). -/
def Reg.atOffset (off : Nat) : Option Reg := Reg.all.find? fun r => r.offset == off

/-- What a read of a register returns, reserved bits 0 (R23); CMD reads 0. -/
def State.readReg (s : State) : Reg → Word
  | .cmd => 0
  | .status => s.statusWord
  | .cfg => s.cfgWord
  | .arg0 => s.arg0
  | .arg1 => s.arg1
  | .arg2 => s.arg2
  | .arg3 => s.arg3
  | .crcAcc => s.crcAcc.setWidth 32
  | .encState => s.encStateWord
  | .encPtr => s.encPtr
  | .encRem => s.encRem
  | .encOut => s.encOut.setWidth 32
  | .decState => s.decStateWord
  | .decBase => s.decBase
  | .decCap => s.decCap
  | .decLen => s.decLen
  | .frmLen => s.frmLen
  | .frmCrc => s.frmCrc.setWidth 32
  | .frmResp => s.frmResp.setWidth 32
  | .frmWval => s.frmWval.setWidth 32
  | .frmSval => s.frmSval

/-- What a write stores (R65): CFG bits 2:0 and 15:8, CRC_ACC bits 15:0, all of ARGn; a read-only
register ignores it. CMD stores nothing: its writes run a command (Machine/HostPort.lean). -/
def State.writeReg (s : State) (r : Reg) (v : Word) : State :=
  match r with
  | .cfg => { s with cfgWidth := v.extractLsb' 0 3, cfgChannels := v.extractLsb' 8 8 }
  | .arg0 => { s with arg0 := v }
  | .arg1 => { s with arg1 := v }
  | .arg2 => { s with arg2 := v }
  | .arg3 => { s with arg3 := v }
  | .crcAcc => { s with crcAcc := v.extractLsb' 0 16 }
  | .cmd | .status | .encState | .encPtr | .encRem | .encOut | .decState | .decBase | .decCap
  | .decLen | .frmLen | .frmCrc | .frmResp | .frmWval | .frmSval => s

end Sys2Proof.Machine
end

