-- ==== Sys2Proof/Machine/HostPort.lean ====
section
/-! DEFINITION. The host port (spec/20_memory.md R61 to R66): one host access performed as one step.
A 32-bit write to CMD decodes its value and executes the command (R62), or reports ERR_ILLEGAL
(spec/60_exceptions.md R212). -/

namespace Sys2Proof.Machine

/-- The size of the block's host address space: offsets 0x00000 .. 0x1FFFF (R61). -/
def windowSize : Nat := 0x20000

/-- The offset where the RAM window starts (R61). -/
def ramWindow : Nat := 0x10000

/-- Record the result of the access (R221, log 4). -/
def State.answer (s : State) (status : BusStatus) (data : Word) : State :=
  { s with resp := { status := status, data := data } }

/-- A performed write: acknowledged, no data. -/
def State.acked (s : State) : State := s.answer .okay 0

/-- An access that breaks R63 or R64: a bus error, no state change, and a read returns 0 (R221). -/
def State.busError (s : State) : State := s.answer .busError 0

/-- Run a command word (R62): the command, or for an illegal word ERR_ILLEGAL alone (R86, R212). -/
def runWord (w : Word) (s : State) : Result :=
  match decode w with
  | .ok i => exec i s
  | .error _ => s.raise .errIllegal

/-- Acknowledge the CMD write once its command has run (R62). -/
def ackResult (r : Result) : Result :=
  match r with
  | .next t => .next t.acked
  | .fault f => .fault f
  | .refused e => .refused e

/-- A legal access width and alignment in the register window: 32 bits at a multiple of 4 (R63). -/
def regAccessOk (off bits : Nat) : Bool := bits == 32 && off % 4 == 0

/-- A legal access width in the RAM window: 8 bits (R64). -/
def ramAccessOk (bits : Nat) : Bool := bits == 8

/-- A read inside the block's window (R63 to R65): it changes nothing (R66). -/
def hostRead (off bits : Nat) (s : State) : State :=
  if off < ramWindow then
    if regAccessOk off bits then
      s.answer .okay ((Reg.atOffset off).elim 0 s.readReg)
    else s.busError
  else if ramAccessOk bits then
    let a := off - ramWindow
    s.answer .okay (if a < s.params.ramSize then (s.ram.read a).setWidth 32 else 0)
  else s.busError

/-- A write inside the block's window (R62 to R65). -/
def hostWrite (off bits : Nat) (v : Word) (s : State) : Result :=
  if off < ramWindow then
    if regAccessOk off bits then
      match Reg.atOffset off with
      | some .cmd => ackResult (runWord v s)
      | some r => .next (s.writeReg r v).acked
      | none => .next s.acked
    else .next s.busError
  else if ramAccessOk bits then
    let a := off - ramWindow
    if a < s.params.ramSize then
      .next (State.acked { s with ram := s.ram.write a (v.extractLsb' 0 8) })
    else .next s.acked
  else .next s.busError

/-- The offset of a host address from BASE, if the block decodes it (R61). The address alone decides
the window of an access (log 7). -/
def State.offsetOf (s : State) (addr : Nat) : Option Nat :=
  if s.params.base ≤ addr ∧ addr - s.params.base < windowSize then some (addr - s.params.base)
  else none

/-- One host access. "The block does not decode host addresses outside" its window (R61): it does
not answer and nothing of it changes (log 5). -/
def performAccess (a : Access) (s : State) : Result :=
  match a with
  | .read addr bits =>
    match s.offsetOf addr with
    | none => .next (s.answer .unclaimed 0)
    | some off => .next (hostRead off bits s)
  | .write addr bits v =>
    match s.offsetOf addr with
    | none => .next (s.answer .unclaimed 0)
    | some off => hostWrite off bits v s

/-- The block's next step: perform the host's next access (R72: one at a time, in the order the host
issues them); with none to come the block is idle and holds its state (R16, R220). -/
def hostStep (s : State) : Result :=
  match s.host with
  | [] => .next s
  | a :: rest => performAccess a { s with host := rest }

/-- The access that issues a command word: a 32-bit write to CMD (R62). -/
def issueWord (p : Params) (w : Word) : Access := .write (p.base + Reg.cmd.offset) 32 w

end Sys2Proof.Machine
end

