-- ==== Sys2Proof/Machine/Step.lean ====
section
/-! DEFINITION. One step of the machine, and the state in which the next step runs a given word. The
block has no program counter and fetches nothing (spec/10_state.md R21): a step performs the host's
next access (Machine/HostPort.lean). -/

namespace Sys2Proof.Machine

/-- One step: the host's next access, or nothing when the host is silent. -/
def step (s : State) : Host.Outcome State Fault Refusal := hostStep s

/-- `s` with the command word as the host's next access, a write to CMD, so that the very next step
runs it (log 3). -/
def State.withFetchWord (s : State) (nbits w : Nat) : State :=
  { s with host := issueWord s.params (BitVec.ofNat 32 (w % 2 ^ nbits)) :: s.host }

end Sys2Proof.Machine
end

