-- ==== Sys2Proof/Machine/HostProgram.lean ====
section
/-! DEFINITION. Host programs as data (spec/30_encoding.md R89): lines that stand for host accesses,
and the pseudo-instructions of R90 with their expansions. A program is the list of accesses it
expands to, to be placed in `State.host` (log 3). -/

namespace Sys2Proof.Machine

/-- A line of a host program (R89). -/
inductive HostLine where
  /-- `WR <reg>, <v32>`. -/
  | wr (r : Reg) (v : Word)
  /-- `RD <reg>`. -/
  | rd (r : Reg)
  /-- `WRB <a>, <b>`. -/
  | wrb (a : Nat) (b : Byte)
  /-- `RDB <a>`. -/
  | rdb (a : Nat)
  /-- A bare command line: "shorthand for `WR CMD, <its encoding>`". -/
  | command (i : Instr)
  deriving DecidableEq, Repr

/-- A pseudo-instruction (R90). The operands are numbers of any size: R90 gives them no range, and
what one that does not fit its register means is the model's choice (log 14). -/
inductive Pseudo where
  /-- `CFGW w, n`. -/
  | cfgw (w n : Nat)
  /-- `LOADB a, b0, …, bk`. -/
  | loadb (a : Nat) (bytes : List Byte)
  /-- `CRC16 a, n`. -/
  | crc16 (a n : Nat)
  /-- `ENC a, n`. -/
  | enc (a n : Nat)
  /-- `DECBUF a, n`. -/
  | decbuf (a n : Nat)
  /-- `PUSHS b0, …, bk`. -/
  | pushs (bytes : List Byte)
  /-- `PULL k`. -/
  | pull (k : Nat)
  deriving DecidableEq, Repr

/-- The access a line stands for, on a block at the given parameters' BASE (R89). -/
def HostLine.access (p : Params) : HostLine → Access
  | .wr r v => .write (p.base + r.offset) 32 v
  | .rd r => .read (p.base + r.offset) 32
  | .wrb a b => .write (p.base + ramWindow + a) 8 (b.setWidth 32)
  | .rdb a => .read (p.base + ramWindow + a) 8
  | .command i => issueWord p (encode i)

/-- `WRB a, b0; WRB a+1, b1; …`. -/
def storeLines (a : Nat) : List Byte → List HostLine
  | [] => []
  | b :: rest => .wrb a b :: storeLines (a + 1) rest

/-- `WR ARG0, a; WR ARG1, n; <command>`. DESIGN CHOICE (log 14): an `a` or `n` wider than the 32-bit
value `WR` takes keeps its low 32 bits. -/
def spanLines (a n : Nat) (i : Instr) : List HostLine :=
  [.wr .arg0 (BitVec.ofNat 32 a), .wr .arg1 (BitVec.ofNat 32 n), .command i]

/-- The expansion column of R90. DESIGN CHOICE (log 14): the value `(n << 8) | w` of CFGW keeps its low
32 bits where it is wider than the 32-bit value `WR` takes. -/
def Pseudo.lines : Pseudo → List HostLine
  | .cfgw w n => [.wr .cfg (BitVec.ofNat 32 n <<< 8 ||| BitVec.ofNat 32 w)]
  | .loadb a bytes => storeLines a bytes
  | .crc16 a n => spanLines a n (.crcSpan true)
  | .enc a n => spanLines a n .encStart
  | .decbuf a n => spanLines a n .decReset
  | .pushs bytes => bytes.map fun b => .command (.decPush b)
  | .pull k =>
    (List.replicate k [HostLine.command .encPull, .rd .status, .rd .encOut]).flatten

end Sys2Proof.Machine
end

