-- ==== Sys2Proof/Safety.lean ====
section
/-! DEFINITION. What counts as a good state and a good run, in the terms the claims use: the
invariants of spec/10_state.md R31 and R35 and the model's own, what a command leaves unchanged, and
sequences of commands. -/

namespace Sys2Proof.Machine

/-! ### Invariants -/

/-- The encoder invariants, bullet by bullet as R31 lists them. -/
structure EncInv (s : State) : Prop where
  cursorInRam : s.encPtr.toNat + s.encRem.toNat ≤ s.params.ramSize
  dataBlock : s.encSt = .data →
    1 ≤ s.encBlk.toNat ∧ s.encBlk.toNat ≤ 254 ∧ s.encBlk.toNat ≤ s.encRem.toNat
  zeroAhead : s.encZero = true → s.encSt = .data ∧ s.encBlk.toNat + 1 ≤ s.encRem.toNat
  noBlock : s.encSt ≠ .data → s.encBlk = 0 ∧ s.encZero = false
  consumed : s.encSt = .done ∨ s.encSt = .term → s.encRem = 0

/-- The decoder invariants, bullet by bullet as R35 lists them. -/
structure DecInv (s : State) : Prop where
  lenInCap : s.decLen.toNat ≤ s.decCap.toNat
  destInRam : s.decBase.toNat + s.decCap.toNat ≤ s.params.ramSize
  idleClear : s.decSt = .idle → s.decCnt = 0 ∧ s.decOvf = false
  blockCount : s.decSt = .block → s.decCnt.toNat ≤ 253
  pblockCount : s.decSt = .pblock → s.decCnt.toNat ≤ 254

/-- The data RAM is in canonical form and lists only addresses that exist (R60). -/
structure RamInv (s : State) : Prop where
  canonical : s.ram.wf = true
  inRam : ∀ c ∈ s.ram, c.1 < s.params.ramSize

/-- The status registers agree with what R141, R182, R173 and R213 let commands write: an error code
comes with ERR set, OVF means the destination is full, an unverified frame has no response, and a
frame length is at most 1028 bytes and fits the RAM. -/
structure ReportInv (s : State) : Prop where
  errSticks : s.code.isError = true → s.err = true
  ovfFull : s.decOvf = true → s.decLen = s.decCap
  respVerified : s.frmValid = false → s.frmResp = 0
  frmLenBound : s.frmLen.toNat ≤ 1028
  frmLenInRam : s.frmLen.toNat ≤ s.params.ramSize

/-- The invariant of the block: legal parameters (R7) and the four groups above. -/
structure Inv (s : State) : Prop where
  params : s.params.wellFormed = true
  enc : EncInv s
  dec : DecInv s
  mem : RamInv s
  report : ReportInv s

/-! ### What a command leaves unchanged -/

/-- Every RAM byte reads as before. -/
def SameRam (s t : State) : Prop := ∀ x : Nat, t.ramByte x = s.ramByte x

/-- Every RAM byte outside the `n` bytes from `a` reads as before. -/
def SameRamOutside (a n : Nat) (s t : State) : Prop :=
  ∀ x : Nat, ¬(a ≤ x ∧ x < a + n) → t.ramByte x = s.ramByte x

/-- Every register the host can read, but for STATUS and those listed, reads as before; so do the
model's own fields: the parameters, the host's accesses and the bus's answer. -/
def SameRegsExcept (changed : List Reg) (s t : State) : Prop :=
  (∀ r : Reg, r ≠ .status → r ∉ changed → t.readReg r = s.readReg r) ∧
    t.params = s.params ∧ t.host = s.host ∧ t.resp = s.resp

/-- Command `i` completes from `s` in `t`, reporting `c`: CODE is `c`, ERR is set by an error code
and kept otherwise (R213), FRM_VALID is kept, and no register but STATUS and those listed changes. -/
def Completes (i : Instr) (s : State) (c : Code) (changed : List Reg) (t : State) : Prop :=
  exec i s = .next t ∧ t.code = c ∧ t.err = (s.err || c.isError) ∧ t.frmValid = s.frmValid ∧
    SameRegsExcept changed s t

/-- Command `i` ends in the error `c` and changes nothing but CODE and ERR. -/
def RaisesOnly (i : Instr) (s : State) (c : Code) : Prop :=
  ∃ t, exec i s = .next t ∧ t.code = c ∧ t.err = true ∧ t.frmValid = s.frmValid ∧
    SameRegsExcept [] s t ∧ SameRam s t

/-- A verify ends with the error `c`: FRM_VALID and FRM_RESP are cleared, ERR is set, and no register
but STATUS, FRM_RESP and those listed changes, nor any RAM byte (R182, R215). -/
def VerifyFails (i : Instr) (s : State) (c : Code) (changed : List Reg) (t : State) : Prop :=
  exec i s = .next t ∧ t.code = c ∧ t.err = true ∧ t.frmValid = false ∧ t.frmResp = 0 ∧
    SameRegsExcept (.frmResp :: changed) s t ∧ SameRam s t

/-- The output action emit(v) of R141, as a relation between the state before and after: the byte is
stored at DEC_BASE + DEC_LEN and counted, or dropped with OVF set. -/
def Emitted (s t : State) (v : Byte) : Prop :=
  (s.decOvf = false ∧ s.decLen.toNat < s.decCap.toNat →
    t.code = .decData ∧ t.decLen.toNat = s.decLen.toNat + 1 ∧ t.decOvf = false ∧
      t.ramByte (s.decBase.toNat + s.decLen.toNat) = v ∧
      SameRamOutside (s.decBase.toNat + s.decLen.toNat) 1 s t) ∧
  (¬(s.decOvf = false ∧ s.decLen.toNat < s.decCap.toNat) →
    t.code = .errOverflow ∧ t.decLen = s.decLen ∧ t.decOvf = true ∧ SameRam s t)

/-- The state a code byte enters (R140): PBLOCK(254) for 0xFF, else BLOCK(b - 1). -/
def EntersBlock (t : State) (b : Byte) : Prop :=
  (b = 0xFF → t.decSt = .pblock ∧ t.decCnt = 254) ∧
  (b ≠ 0xFF → t.decSt = .block ∧ t.decCnt.toNat + 1 = b.toNat)

/-- `l` and `z` are what the code scan of R124 finds in the `m` bytes from `a`: the least offset of a
0x00 and true, or `m` and false. -/
def ScanFinds (s : State) (a m l : Nat) (z : Bool) : Prop :=
  (∀ j, j < l → s.ramByte (a + j) ≠ 0x00) ∧
    (z = true → l < m ∧ s.ramByte (a + l) = 0x00) ∧ (z = false → l = m)

/-! ### Frames -/

/-- CFG.WIDTH is one of the legal widths 2, 3 and 4 (R24, R170). -/
def LegalWidth (s : State) : Prop := s.cfgWidth = 2 ∨ s.cfgWidth = 3 ∨ s.cfgWidth = 4

/-- Command `i` builds the frame `data ++ tail` at ARG0 and reports its length and the CRC of `data`,
or raises ERR_BOUNDS and writes nothing where it does not fit (R178). -/
def BuildsFrame (i : Instr) (s : State) (data tail : List Byte) : Prop :=
  (s.arg0.toNat + (data ++ tail).length ≤ s.params.ramSize →
    ∃ t, Completes i s .ok [.frmLen, .frmCrc] t ∧
      t.frmLen.toNat = (data ++ tail).length ∧ t.frmCrc = crc16 data ∧
      t.ram.bytes s.arg0.toNat (data ++ tail).length = data ++ tail ∧
      SameRamOutside s.arg0.toNat (data ++ tail).length s t) ∧
  (s.params.ramSize < s.arg0.toNat + (data ++ tail).length → RaisesOnly i s .errBounds)

/-- Command `i` verifies the frame of `k` words of `w` bytes at ARG0 (R182): a range error, a pass
that reports word 0, or a CRC error. Only the first two bytes of the trailing word are compared. -/
def VerifiesFrame (i : Instr) (s : State) (k w : Nat) : Prop :=
  (s.params.ramSize < s.arg0.toNat + k * w → ∃ t, VerifyFails i s .errBounds [] t) ∧
  (s.arg0.toNat + k * w ≤ s.params.ramSize →
    (crc16 (s.ram.bytes s.arg0.toNat ((k - 1) * w)) =
        s.ramByte (s.arg0.toNat + (k - 1) * w) ++ s.ramByte (s.arg0.toNat + (k - 1) * w + 1) →
      ∃ t, exec i s = .next t ∧ t.code = .ok ∧ t.err = s.err ∧ t.frmValid = true ∧
        t.frmResp = s.ramByte s.arg0.toNat ++ s.ramByte (s.arg0.toNat + 1) ∧
        t.frmCrc = crc16 (s.ram.bytes s.arg0.toNat ((k - 1) * w)) ∧ t.frmLen.toNat = k * w ∧
        SameRegsExcept [.frmResp, .frmCrc, .frmLen] s t ∧ SameRam s t) ∧
    (crc16 (s.ram.bytes s.arg0.toNat ((k - 1) * w)) ≠
        s.ramByte (s.arg0.toNat + (k - 1) * w) ++ s.ramByte (s.arg0.toNat + (k - 1) * w + 1) →
      ∃ t, VerifyFails i s .errCrc [.frmCrc, .frmLen] t ∧
        t.frmCrc = crc16 (s.ram.bytes s.arg0.toNat ((k - 1) * w)) ∧ t.frmLen.toNat = k * w))

/-- The three shapes of R173. -/
inductive Shape where
  | short | writeOne | normal
  deriving DecidableEq, Repr

/-- The build command of a shape, with the flag C. -/
def Shape.build : Shape → Bool → Instr
  | .short, c => .frmBuildShort c
  | .writeOne, c => .frmBuildWrite c
  | .normal, c => .frmBuildNormal c

/-- The verify command of a shape. -/
def Shape.verify : Shape → Instr
  | .short => .frmVerifyShort
  | .writeOne => .frmVerifyWrite
  | .normal => .frmVerifyNormal

/-- K, the number of words of a shape's frame with its CRC word, for N channels (R173). -/
def Shape.words : Shape → Nat → Nat
  | .short, _ => 2
  | .writeOne, _ => 3
  | .normal, n => n + 2

/-- States `s` and `u` hold the same configuration for a frame at ARG0: width, channel count, address
and parameters (the condition of R183 and R238). -/
structure SameFrameSetup (s u : State) : Prop where
  width : u.cfgWidth = s.cfgWidth
  channels : u.cfgChannels = s.cfgChannels
  address : u.arg0 = s.arg0
  params : u.params = s.params

/-- In the `n` bytes from `a`, `u` holds the bytes of `s` but for bit `i` of the byte at `a + k`. -/
def OneBitFlipped (a n k i : Nat) (s u : State) : Prop :=
  u.ramByte (a + k) = s.ramByte (a + k) ^^^ BitVec.twoPow 8 i ∧
    ∀ x : Nat, a ≤ x → x < a + n → x ≠ a + k → u.ramByte x = s.ramByte x

/-- The codes a command may report: the "produced by" column of R211, read by command. -/
def reportsOf : Mnemonic → List Code
  | .nop | .softReset | .clrErr | .crcInit | .crcByte => [.ok]
  | .crcSpan | .encStart | .decReset => [.ok, .errBounds]
  | .encPull => [.encByte, .encEnd]
  | .decPush =>
    [.ok, .decStart, .decData, .decComplete, .errMalformed, .errOverflow, .errOvfEnd]
  | .frmBuildShort | .frmBuildWrite | .frmBuildNormal | .frmWord => [.ok, .errConfig, .errBounds]
  | .frmVerifyShort | .frmVerifyWrite | .frmVerifyNormal =>
    [.ok, .errConfig, .errBounds, .errCrc]

/-! ### Sequences of commands -/

/-- Run commands one after another, collecting the status code each one reports; none where one of
them stops the machine. -/
def runCodes : List Instr → State → Option (List Code × State)
  | [], s => some ([], s)
  | i :: rest, s =>
    match exec i s with
    | .next t => (runCodes rest t).map fun r => (t.code :: r.1, r.2)
    | .fault _ => none
    | .refused _ => none

/-- Between two pulls of an encoding of the `n` payload bytes at `a`, anything may happen that leaves
the encoder's registers, the parameters and the payload bytes as they are: host writes elsewhere,
DEC_PUSH, FRM_BUILD_* (the condition of R127 and R235). -/
structure Quiet (a n : Nat) (s t : State) : Prop where
  params : t.params = s.params
  encSt : t.encSt = s.encSt
  encBlk : t.encBlk = s.encBlk
  encZero : t.encZero = s.encZero
  encPtr : t.encPtr = s.encPtr
  encRem : t.encRem = s.encRem
  payload : ∀ x : Nat, a ≤ x → x < a + n → t.ramByte x = s.ramByte x

/-- `PullTrace a n s bytes t`: from `s` to `t`, ENC_PULL commands with quiet activity between them
return `bytes`, each with the status ENC_BYTE (R127). -/
inductive PullTrace (a n : Nat) : State → List Byte → State → Prop where
  | rest {s t : State} : Quiet a n s t → PullTrace a n s [] t
  | pull {s q p t : State} {bytes : List Byte} : Quiet a n s q → exec .encPull q = .next p →
      p.code = .encByte → PullTrace a n p bytes t → PullTrace a n s (p.encOut :: bytes) t

/-- Apply a change of state to a next state, and leave a stop as it is. -/
def Result.mapNext (f : State → State) : Result → Result
  | .next t => .next (f t)
  | .fault e => .fault e
  | .refused e => .refused e

end Sys2Proof.Machine
end

