-- ==== Sys2Proof/Certificates/Slice0/Obligations.lean ====
section
/-! DEFINITION. The statements for the provers, drawn from the numbered rules of spec/. Where a
statement needs an invariant (R31, R35), it is a hypothesis, and `StepKeepsTheInvariant` states that
every step keeps it. "The spec infers" marks a law that the spec derives from its own rules. -/

open Sys2Proof Sys2Proof.Machine

/-! ### The command word (spec/30_encoding.md) -/

/-- Decoding an encoded command gives the command back, for every command and every operand. -/
def Obligations.DecodeOfEncodeIsTheCommand : Prop :=
  ∀ i : Instr, decode (encode i) = .ok i

/-- A word that decodes is the encoding of what it decodes to: no bit of a legal word is dropped. -/
def Obligations.EncodeOfDecodeIsTheWord : Prop :=
  ∀ (w : Word) (i : Instr), decode w = .ok i → encode i = w

/-- A word that selects a row of the opcode map (R85) decodes to that row's command, with F[0] and
IMM8 as its operands (R82). -/
def Obligations.DecoderFollowsTheOpcodeMap : Prop :=
  ∀ (w : Word) (row : OpcodeRow), row ∈ opcodeTable → w &&& row.mask = row.pattern →
    ∃ i, decode w = .ok i ∧ i.mnemonic = row.mnemonic ∧ i.flag = w.getLsbD 16 ∧
      i.imm = w.extractLsb' 0 8

/-- The spec infers: "No word matches two rows". -/
def Obligations.NoWordMatchesTwoRows : Prop :=
  ∀ (w : Word) (r q : OpcodeRow), r ∈ opcodeTable → q ∈ opcodeTable →
    w &&& r.mask = r.pattern → w &&& q.mask = q.pattern → r = q

/-- From R88, over lines held as data (the model's form, log 12): a line is a command exactly when
its suffix and its operand are those its mnemonic takes, and then the suffix sets F[0] and the operand
goes into IMM8. That an IMM8 line without its operand and the other family's suffix are rejected is
the model's reading of R88 (log 12). The five examples of R88, and the line of every command. -/
def Obligations.AssemblerFollowsItsSyntax : Prop :=
  (∀ l : AsmLine,
    let suffixFits := l.suffix = none ∨ (l.suffix = some .restart ∧ l.mnemonic = .crcSpan) ∨
      (l.suffix = some .withCrc ∧
        l.mnemonic ∈ [Mnemonic.frmBuildShort, .frmBuildWrite, .frmBuildNormal])
    let operandFits :=
      (l.mnemonic ∈ [Mnemonic.crcByte, .decPush, .frmWord] ∧ ∃ n, n < 256 ∧ l.operand = some n) ∨
      (l.mnemonic ∉ [Mnemonic.crcByte, .decPush, .frmWord] ∧ l.operand = none)
    (suffixFits ∧ operandFits → ∃ w, assemble l = some w ∧ opField w = l.mnemonic.op ∧
      flagField w = (if l.suffix.isSome then 1 else 0) ∧ reservedField w = 0 ∧
      (immField w).toNat = l.operand.getD 0) ∧
    (¬(suffixFits ∧ operandFits) → assemble l = none)) ∧
  assemble { mnemonic := .crcSpan, suffix := some .restart, operand := none } = some 0x12010000 ∧
  assemble { mnemonic := .frmBuildWrite, suffix := some .withCrc, operand := none }
    = some 0x41010000 ∧
  assemble { mnemonic := .crcByte, suffix := none, operand := some 0x31 } = some 0x11000031 ∧
  assemble { mnemonic := .decPush, suffix := none, operand := some 0xFF } = some 0x310000FF ∧
  assemble { mnemonic := .frmWord, suffix := none, operand := some 3 } = some 0x50000003 ∧
  ∀ i : Instr, assemble i.toAsm = some (encode i)

/-- Words written out from the match and field columns of R85 decode to their commands: one or more
for each family. -/
def Obligations.ListedWordsDecode : Prop :=
  decode 0x02000000 = .ok .clrErr ∧ decode 0x110000A5 = .ok (.crcByte 0xA5) ∧
  decode 0x12010000 = .ok (.crcSpan true) ∧ decode 0x21000000 = .ok .encPull ∧
  decode 0x31000007 = .ok (.decPush 7) ∧ decode 0x42000000 = .ok (.frmBuildNormal false) ∧
  decode 0x4A000000 = .ok .frmVerifyNormal ∧ decode 0x500000FE = .ok (.frmWord 0xFE)

/-- R86: a word that matches no row is illegal; executing it raises ERR_ILLEGAL and changes no state
but STATUS.CODE and STATUS.ERR. -/
def Obligations.IllegalWordOnlyReports : Prop :=
  ∀ (w : Word) (s : State), (∀ row ∈ opcodeTable, w &&& row.mask ≠ row.pattern) →
    (∃ e, decode w = .error e) ∧
    ∃ t, runWord w s = .next t ∧ t.code = .errIllegal ∧ t.err = true ∧ t.frmValid = s.frmValid ∧
      SameRegsExcept [] s t ∧ SameRam s t

/-! ### The step (spec/20_memory.md R62) -/

/-- From R62: the host's write of a word to CMD executes the command the word decodes to, as one step;
the step then acknowledges the write. A word that is no command reports ERR_ILLEGAL (R212). The list
the write stands in (log 3), and the answer with data 0 that acknowledges it (log 4), are the model's
choice. -/
def Obligations.CmdWriteRunsItsWord : Prop :=
  ∀ (s : State) (w : Word) (rest : List Access), s.host = issueWord s.params w :: rest →
    (∀ i, decode w = .ok i → step s = ackResult (exec i { s with host := rest })) ∧
    (∀ e, decode w = .error e → ∃ t, step s = .next t ∧ t.code = .errIllegal ∧ t.err = true ∧
      t.frmValid = s.frmValid ∧ (∀ r : Reg, r ≠ .status → t.readReg r = s.readReg r) ∧
      SameRam s t ∧ t.params = s.params ∧ t.host = rest ∧
      t.resp = { status := .okay, data := 0 })

/-- The model's own (logs 3 and 4): in `s.withFetchWord 32 w` the next step runs the command of `w` on
`s` and acknowledges the write. -/
def Obligations.StepRunsTheFetchWord : Prop :=
  ∀ (s : State) (w : Nat) (i : Instr), decodeTableWord 32 w = some i →
    step (s.withFetchWord 32 w) = ackResult (exec i s)

/-! ### Control commands and reset (spec/45_control.md, spec/70_reset_and_hazards.md) -/

/-- R200: NOP reports OK and changes nothing else. -/
def Obligations.NopOnlyReportsOk : Prop :=
  encode .nop = 0x00000000 ∧
  ∀ s : State, ∃ t, Completes .nop s .ok [] t ∧ SameRam s t

/-- R201: SOFT_RESET gives every register its reset value and leaves the RAM as it is. -/
def Obligations.SoftResetClearsTheRegisters : Prop :=
  encode .softReset = 0x01000000 ∧
  ∀ s : State, ∃ t, exec .softReset s = .next t ∧ t.code = .ok ∧
    (∀ r : Reg, t.readReg r = if r = .crcAcc then 0x0000FFFF else 0x00000000) ∧
    SameRam s t ∧ t.params = s.params ∧ t.host = s.host ∧ t.resp = s.resp

/-- R202: CLR_ERR clears ERR and reports OK; FRM_VALID and everything else are kept. -/
def Obligations.ClrErrClearsTheStickyFlag : Prop :=
  encode .clrErr = 0x02000000 ∧
  ∀ s : State, ∃ t, exec .clrErr s = .next t ∧ t.code = .ok ∧ t.err = false ∧
    t.frmValid = s.frmValid ∧ SameRegsExcept [] s t ∧ SameRam s t

/-- R230 and R231: after a power-on reset, whatever the parameters and the RAM contents, every
register at its offset and with its access right reads its reset value, field by field; SOFT_RESET
gives the registers the same values. -/
def Obligations.ResetsGiveTheStatedValues : Prop :=
  ∀ (p : Params) (ram : Memory),
    let s := State.powerOn p ram
    (Reg.all.map fun r => (r.offset, r.access, s.readReg r)) =
      [(0x000, .writeOnly, 0), (0x004, .readOnly, 0), (0x008, .readWrite, 0),
       (0x010, .readWrite, 0), (0x014, .readWrite, 0), (0x018, .readWrite, 0),
       (0x01C, .readWrite, 0), (0x020, .readWrite, 0x0000FFFF),
       (0x030, .readOnly, 0), (0x034, .readOnly, 0), (0x038, .readOnly, 0), (0x03C, .readOnly, 0),
       (0x040, .readOnly, 0), (0x044, .readOnly, 0), (0x048, .readOnly, 0), (0x04C, .readOnly, 0),
       (0x050, .readOnly, 0), (0x054, .readOnly, 0), (0x058, .readOnly, 0), (0x05C, .readOnly, 0),
       (0x060, .readOnly, 0)] ∧
    s.code = .ok ∧ s.err = false ∧ s.frmValid = false ∧ s.cfgWidth = 0 ∧ s.cfgChannels = 0 ∧
    s.encSt = .done ∧ s.encBlk = 0 ∧ s.encZero = false ∧
    s.decSt = .idle ∧ s.decCnt = 0 ∧ s.decOvf = false ∧
    ∀ u : State, ∃ t, exec .softReset u = .next t ∧ ∀ r : Reg, t.readReg r = s.readReg r

/-! ### The CRC unit (spec/41_crc.md) -/

/-- R102: CRC_INIT sets CRC_ACC to 0xFFFF. -/
def Obligations.CrcInitRestartsTheCrc : Prop :=
  encode .crcInit = 0x10000000 ∧
  ∀ s : State, ∃ t, Completes .crcInit s .ok [.crcAcc] t ∧ t.crcAcc = 0xFFFF ∧ SameRam s t

/-- R103: CRC_BYTE b folds its byte into CRC_ACC by the byte step; and R100, spelled out: the byte
step XORs the byte into bits 15:8, then shifts left eight times, each time with XOR 0x1021 when bit 15
was set. The examples of R100 and R103. -/
def Obligations.CrcByteFoldsItsByte : Prop :=
  (∀ (b : Byte) (s : State), encode (.crcByte b) = 0x11000000#32 ||| b.setWidth 32 ∧
    ∃ t, Completes (.crcByte b) s .ok [.crcAcc] t ∧ t.crcAcc = crcStep s.crcAcc b ∧
      SameRam s t) ∧
  (∀ (acc : Half) (b : Byte),
    let round : Half → Half := fun a =>
      if a.getLsbD 15 then (a <<< 1) ^^^ 0x1021 else a <<< 1
    crcStep acc b = Nat.iterate round 8 (acc ^^^ (b ++ (0x00 : Byte)))) ∧
  crcStep 0xFFFF 0x31 = 0xC782 ∧ crcStep 0xFFFF 0xFF = 0xFF00 ∧ crcStep 0x0000 0x00 = 0x0000

/-- R104: CRC_SPAN folds the bytes of its span, from 0xFFFF with the flag I; a span that runs past
the RAM raises ERR_BOUNDS. -/
def Obligations.CrcSpanFoldsItsSpan : Prop :=
  ∀ (i : Bool) (s : State),
    encode (.crcSpan i) = (if i then 0x12010000 else 0x12000000) ∧
    (s.arg0.toNat + s.arg1.toNat ≤ s.params.ramSize →
      ∃ t, Completes (.crcSpan i) s .ok [.crcAcc] t ∧
        t.crcAcc = (s.ram.bytes s.arg0.toNat s.arg1.toNat).foldl crcStep
          (if i then 0xFFFF else s.crcAcc) ∧
        SameRam s t) ∧
    (s.params.ramSize < s.arg0.toNat + s.arg1.toNat → RaisesOnly (.crcSpan i) s .errBounds)

/-- The spec infers (the continuation law): CRC_SPAN.I over a first piece, then CRC_SPAN over the
piece behind it, give the CRC of both together. -/
def Obligations.CrcContinuesOverPieces : Prop :=
  ∀ (s : State) (n : Word), s.arg0.toNat + s.arg1.toNat + n.toNat ≤ s.params.ramSize →
    s.params.wellFormed = true →
    ∃ t u, exec (.crcSpan true) s = .next t ∧
      exec (.crcSpan false) { t with arg0 := s.arg0 + s.arg1, arg1 := n } = .next u ∧
      u.crcAcc = crc16 (s.ram.bytes s.arg0.toNat (s.arg1.toNat + n.toNat))

/-- The spec infers: "crc16 is affine over GF(2)". The byte step is linear in its two inputs. -/
def Obligations.CrcStepIsLinear : Prop :=
  ∀ (a b : Half) (x y : Byte), crcStep (a ^^^ b) (x ^^^ y) = crcStep a x ^^^ crcStep b y

/-- The spec infers (single-bit error detection): two spans that differ in exactly one bit have
different CRCs, whatever their length. -/
def Obligations.CrcDetectsOneFlippedBit : Prop :=
  ∀ (s u : State) (k i : Nat), s.arg0.toNat + s.arg1.toNat ≤ s.params.ramSize →
    u.params = s.params → u.arg0 = s.arg0 → u.arg1 = s.arg1 → k < s.arg1.toNat → i < 8 →
    OneBitFlipped s.arg0.toNat s.arg1.toNat k i s u →
    ∃ t v, exec (.crcSpan true) s = .next t ∧ exec (.crcSpan true) u = .next v ∧
      t.crcAcc ≠ v.crcAcc

/-- From R27: a command outside the CRC unit neither reads nor writes CRC_ACC. SOFT_RESET is left out:
R201 resets it (log 11). -/
def Obligations.CrcAccBelongsToTheCrcUnit : Prop :=
  ∀ (i : Instr) (s : State) (x : Half),
    i.mnemonic ∉ [Mnemonic.crcInit, .crcByte, .crcSpan, .softReset] →
    exec i { s with crcAcc := x } = Result.mapNext (fun t => { t with crcAcc := x }) (exec i s)

/-! ### The encoder (spec/42_cobs_encoder.md) -/

/-- R123: ENC_START loads the cursor and reads no RAM; a payload that runs past the RAM raises
ERR_BOUNDS. -/
def Obligations.EncStartLoadsTheCursor : Prop :=
  encode .encStart = 0x20000000 ∧
  ∀ s : State,
    (s.arg0.toNat + s.arg1.toNat ≤ s.params.ramSize →
      ∃ t, Completes .encStart s .ok [.encState, .encPtr, .encRem] t ∧ t.encPtr = s.arg0 ∧
        t.encRem = s.arg1 ∧ t.encSt = .code ∧ t.encBlk = 0 ∧ t.encZero = false ∧ SameRam s t) ∧
    (s.params.ramSize < s.arg0.toNat + s.arg1.toNat → RaisesOnly .encStart s .errBounds)

/-- R124 and R125: what one ENC_PULL emits and where it leaves the cursor, in each of the four states
of the encoder. -/
def Obligations.EncPullFollowsTheCursor : Prop :=
  encode .encPull = 0x21000000 ∧
  ∀ s : State, s.params.wellFormed = true → EncInv s →
    ∃ t, Completes .encPull s (if s.encSt = .done then .encEnd else .encByte)
        [.encState, .encPtr, .encRem, .encOut] t ∧ SameRam s t ∧
      (s.encSt = .done → SameRegsExcept [] s t) ∧
      (s.encSt = .term → SameRegsExcept [.encState, .encOut] s t ∧ t.encOut = 0x00 ∧
        t.encSt = .done ∧ t.encBlk = 0 ∧ t.encZero = false) ∧
      (s.encSt = .code → ∀ (l : Nat) (z : Bool),
        ScanFinds s s.encPtr.toNat (min 254 s.encRem.toNat) l z →
          t.encOut.toNat = l + 1 ∧
          (0 < l → t.encSt = .data ∧ t.encBlk.toNat = l ∧ t.encZero = z ∧
            t.encPtr = s.encPtr ∧ t.encRem = s.encRem) ∧
          (l = 0 → z = true → t.encSt = .code ∧ t.encBlk = 0 ∧ t.encZero = false ∧
            t.encPtr.toNat = s.encPtr.toNat + 1 ∧ t.encRem.toNat + 1 = s.encRem.toNat) ∧
          (l = 0 → z = false → t.encSt = .term ∧ t.encBlk = 0 ∧ t.encZero = false ∧
            t.encPtr = s.encPtr ∧ t.encRem = s.encRem)) ∧
      (s.encSt = .data → t.encOut = s.ramByte s.encPtr.toNat ∧
        (1 < s.encBlk.toNat → t.encSt = .data ∧ t.encBlk.toNat + 1 = s.encBlk.toNat ∧
          t.encZero = s.encZero ∧ t.encPtr.toNat = s.encPtr.toNat + 1 ∧
          t.encRem.toNat + 1 = s.encRem.toNat) ∧
        (s.encBlk.toNat = 1 → t.encBlk = 0 ∧ t.encZero = false ∧
          (s.encZero = true → t.encSt = .code ∧ t.encPtr.toNat = s.encPtr.toNat + 2 ∧
            t.encRem.toNat + 2 = s.encRem.toNat) ∧
          (s.encZero = false → t.encSt = (if s.encRem.toNat = 1 then .term else .code) ∧
            t.encPtr.toNat = s.encPtr.toNat + 1 ∧ t.encRem.toNat + 1 = s.encRem.toNat)))

/-- R120: the block partition of the encoding. A last block of at most 254 bytes without a 0x00 is
followed by the terminator; a 0x00 behind fewer than 254 other bytes is elided and a block follows;
a full block of 254 bytes is followed by the next block with nothing elided. -/
def Obligations.CobsEncodeFollowsItsBlocks : Prop :=
  (∀ p : List Byte, p.length ≤ 254 → (0x00 : Byte) ∉ p →
    cobsEncode p = BitVec.ofNat 8 (p.length + 1) :: p ++ [0x00]) ∧
  (∀ p rest : List Byte, p.length < 254 → (0x00 : Byte) ∉ p →
    cobsEncode (p ++ 0x00 :: rest) = BitVec.ofNat 8 (p.length + 1) :: p ++ cobsEncode rest) ∧
  (∀ (p : List Byte) (b : Byte) (rest : List Byte), p.length = 254 → (0x00 : Byte) ∉ p →
    cobsEncode (p ++ b :: rest) = 0xFF :: p ++ cobsEncode (b :: rest))

/-- The spec infers (delimiter safety): the only 0x00 of an encoding is its last byte. -/
def Obligations.CobsEncodeIsDelimiterSafe : Prop :=
  ∀ p : List Byte, ∃ body, cobsEncode p = body ++ [0x00] ∧ (0x00 : Byte) ∉ body

/-- The spec infers (length bounds): n + 2 ≤ len ≤ n + 2 + ⌊(n - 1) / 254⌋ for n ≥ 1, and 2 for the
empty payload. -/
def Obligations.CobsEncodeLengthBounds : Prop :=
  (cobsEncode []).length = 2 ∧
  ∀ p : List Byte, p ≠ [] → p.length + 2 ≤ (cobsEncode p).length ∧
    (cobsEncode p).length ≤ p.length + 2 + (p.length - 1) / 254

/-- The spec infers (machine and function agree): after ENC_START, whatever happens between the pulls
that leaves the cursor and the payload alone, the bytes the pulls return are those of the encoding of
the payload, in order; a pull reports ENC_END exactly when all of them have been returned; and pulls
can return them all. -/
def Obligations.PullsEmitTheEncoding : Prop :=
  ∀ s : State, s.params.wellFormed = true → s.arg0.toNat + s.arg1.toNat ≤ s.params.ramSize →
    ∃ t, exec .encStart s = .next t ∧
      (∀ bytes u, PullTrace s.arg0.toNat s.arg1.toNat t bytes u →
        bytes <+: cobsEncode (s.ram.bytes s.arg0.toNat s.arg1.toNat)) ∧
      (∀ bytes u v, PullTrace s.arg0.toNat s.arg1.toNat t bytes u → exec .encPull u = .next v →
        (v.code = .encEnd ↔ bytes = cobsEncode (s.ram.bytes s.arg0.toNat s.arg1.toNat))) ∧
      ∃ u, PullTrace s.arg0.toNat s.arg1.toNat t
        (cobsEncode (s.ram.bytes s.arg0.toNat s.arg1.toNat)) u

/-! ### The decoder (spec/43_cobs_decoder.md) -/

/-- R142: DEC_RESET sets the destination and returns to IDLE; a destination that runs past the RAM
raises ERR_BOUNDS. -/
def Obligations.DecResetSetsTheDestination : Prop :=
  encode .decReset = 0x30000000 ∧
  ∀ s : State,
    (s.arg0.toNat + s.arg1.toNat ≤ s.params.ramSize →
      ∃ t, Completes .decReset s .ok [.decState, .decBase, .decCap, .decLen] t ∧
        t.decBase = s.arg0 ∧ t.decCap = s.arg1 ∧ t.decSt = .idle ∧ t.decCnt = 0 ∧
        t.decOvf = false ∧ t.decLen = 0 ∧ SameRam s t) ∧
    (s.params.ramSize < s.arg0.toNat + s.arg1.toNat → RaisesOnly .decReset s .errBounds)

/-- R140, with its actions R141 and R144 to R149: the thirteen rows of DEC_PUSH. -/
def Obligations.DecPushFollowsItsTable : Prop :=
  ∀ (b : Byte) (s : State), DecInv s →
    encode (.decPush b) = 0x31000000#32 ||| b.setWidth 32 ∧
    ∃ t, Completes (.decPush b) s t.code [.decState, .decLen] t ∧
      (s.decSt = .idle → b = 0x00 → t.code = .ok ∧ SameRegsExcept [] s t ∧ SameRam s t) ∧
      (s.decSt = .idle → b ≠ 0x00 → t.code = .decStart ∧ t.decLen = 0 ∧ t.decOvf = false ∧
        EntersBlock t b ∧ SameRam s t) ∧
      (s.decSt ≠ .idle → s.decCnt = 0 → b = 0x00 →
        t.decSt = .idle ∧ t.decCnt = 0 ∧ t.decOvf = false ∧ SameRam s t ∧
        (s.decOvf = false → t.code = .decComplete ∧ t.decLen = s.decLen) ∧
        (s.decOvf = true → t.code = .errOvfEnd ∧ t.decLen = 0)) ∧
      (s.decSt = .block → s.decCnt = 0 → b ≠ 0x00 → Emitted s t 0x00 ∧ EntersBlock t b) ∧
      (s.decSt = .pblock → s.decCnt = 0 → b ≠ 0x00 → t.code = .ok ∧ t.decLen = s.decLen ∧
        t.decOvf = s.decOvf ∧ EntersBlock t b ∧ SameRam s t) ∧
      (s.decSt ≠ .idle → s.decCnt ≠ 0 → b = 0x00 → t.code = .errMalformed ∧ t.decSt = .idle ∧
        t.decCnt = 0 ∧ t.decOvf = false ∧ t.decLen = 0 ∧ SameRam s t) ∧
      (s.decSt ≠ .idle → s.decCnt ≠ 0 → b ≠ 0x00 → Emitted s t b ∧ t.decSt = s.decSt ∧
        t.decCnt.toNat + 1 = s.decCnt.toNat)

/-- From R144, R145 and R148: a 0x00 always leaves the decoder in IDLE, from any state, and never
writes the RAM. -/
def Obligations.DelimiterResynchronisesTheDecoder : Prop :=
  ∀ s : State, ∃ t, exec (.decPush 0x00) s = .next t ∧ t.decSt = .idle ∧ SameRam s t ∧
    (DecInv s → t.decCnt = 0 ∧ t.decOvf = false)

/-- From R143: DEC_PUSH writes no byte outside its destination, and none at all unless it reports
DEC_DATA. -/
def Obligations.DecPushStaysInItsDestination : Prop :=
  ∀ (b : Byte) (s : State), DecInv s →
    ∃ t, exec (.decPush b) s = .next t ∧
      SameRamOutside s.decBase.toNat s.decCap.toNat s t ∧ (t.code ≠ .decData → SameRam s t)

/-- The spec infers (the round trip): pushing the encoding of a payload that fits into a decoder in
IDLE reports DEC_START first, DEC_COMPLETE last and no error, and leaves the payload in the
destination. -/
def Obligations.DecodeOfEncodeIsThePayload : Prop :=
  ∀ (s : State) (p : List Byte), DecInv s → s.decSt = .idle → p.length ≤ s.decCap.toNat →
    ∃ codes t, runCodes ((cobsEncode p).map Instr.decPush) s = some (codes, t) ∧
      codes.head? = some .decStart ∧ codes.getLast? = some .decComplete ∧
      (∀ c ∈ codes, c.isError = false) ∧ t.decSt = .idle ∧ t.decLen.toNat = p.length ∧
      t.ram.bytes s.decBase.toNat p.length = p ∧
      SameRamOutside s.decBase.toNat p.length s t

/-- The spec infers (the overflow outcome), for the frames of this encoder: where the payload does not
fit, its first DEC_CAP bytes are written, every later output reports ERR_OVERFLOW, the delimiter
reports ERR_OVF_END and leaves DEC_LEN = 0, and DEC_COMPLETE is never reported. -/
def Obligations.OverflowIsNeverReportedComplete : Prop :=
  ∀ (s : State) (p : List Byte), DecInv s → s.decSt = .idle → s.decCap.toNat < p.length →
    ∃ codes t, runCodes ((cobsEncode p).map Instr.decPush) s = some (codes, t) ∧
      codes.head? = some .decStart ∧ codes.getLast? = some .errOvfEnd ∧ Code.decComplete ∉ codes ∧
      codes.filter (fun c => c == .decData || c == .errOverflow) =
        List.replicate s.decCap.toNat .decData ++
          List.replicate (p.length - s.decCap.toNat) .errOverflow ∧
      t.decSt = .idle ∧ t.decLen = 0 ∧
      t.ram.bytes s.decBase.toNat s.decCap.toNat = p.take s.decCap.toNat ∧
      SameRamOutside s.decBase.toNat s.decCap.toNat s t

/-! ### The frame codec (spec/44_frame_codec.md) -/

/-- R170: with CFG.WIDTH not 2, 3 or 4, every command of the family raises ERR_CONFIG and writes no
other state, but that a verify also clears FRM_VALID and FRM_RESP. -/
def Obligations.IllegalWidthIsAConfigError : Prop :=
  ∀ s : State, ¬LegalWidth s →
    (∀ (sh : Shape) (c : Bool), RaisesOnly (sh.build c) s .errConfig) ∧
    (∀ j : Byte, RaisesOnly (.frmWord j) s .errConfig) ∧
    (∀ sh : Shape, ∃ t, VerifyFails sh.verify s .errConfig [] t)

/-- R171: a control word is its value's two bytes, the more significant first, then zeros; reading a
word back takes its first two bytes alone. The three examples of R171. -/
def Obligations.ControlWordIsBigEndian : Prop :=
  (∀ (v : Half) (w : Nat),
    wordBytes w v = [v.extractLsb' 8 8, v.extractLsb' 0 8] ++ List.replicate (w - 2) 0x00) ∧
  (∀ (hi lo : Byte) (pad : List Byte), word16 (hi :: lo :: pad) = hi ++ lo) ∧
  (∀ (v : Half) (w : Nat), word16 (wordBytes w v) = v) ∧
  wordBytes 2 0x6180 = [0x61, 0x80] ∧ wordBytes 3 0x6180 = [0x61, 0x80, 0x00] ∧
  wordBytes 4 0x6180 = [0x61, 0x80, 0x00, 0x00]

/-- R175 with the body R178: FRM_BUILD_SHORT writes the command word and, with C, the CRC word at
ARG0. -/
def Obligations.BuildShortWritesItsFrame : Prop :=
  ∀ (c : Bool) (s : State),
    encode (.frmBuildShort c) = (if c then 0x40010000 else 0x40000000) ∧
    (¬LegalWidth s → RaisesOnly (.frmBuildShort c) s .errConfig) ∧
    (LegalWidth s →
      let w := s.cfgWidth.toNat
      let data := wordBytes w (s.arg2.extractLsb' 0 16)
      BuildsFrame (.frmBuildShort c) s data (if c then wordBytes w (crc16 data) else []))

/-- R176 with the body R178: FRM_BUILD_WRITE writes the command word, the value word and, with C, the
CRC word at ARG0. -/
def Obligations.BuildWriteWritesItsFrame : Prop :=
  ∀ (c : Bool) (s : State),
    encode (.frmBuildWrite c) = (if c then 0x41010000 else 0x41000000) ∧
    (¬LegalWidth s → RaisesOnly (.frmBuildWrite c) s .errConfig) ∧
    (LegalWidth s →
      let w := s.cfgWidth.toNat
      let data := wordBytes w (s.arg2.extractLsb' 0 16) ++ wordBytes w (s.arg3.extractLsb' 0 16)
      BuildsFrame (.frmBuildWrite c) s data (if c then wordBytes w (crc16 data) else []))

/-- R177 with the body R178: FRM_BUILD_NORMAL writes the command word, N zero words and the CRC slot
at ARG0; the slot is zero without C. -/
def Obligations.BuildNormalWritesItsFrame : Prop :=
  ∀ (c : Bool) (s : State),
    encode (.frmBuildNormal c) = (if c then 0x42010000 else 0x42000000) ∧
    (¬LegalWidth s → RaisesOnly (.frmBuildNormal c) s .errConfig) ∧
    (LegalWidth s →
      let w := s.cfgWidth.toNat
      let data := wordBytes w (s.arg2.extractLsb' 0 16) ++
        List.replicate (s.cfgChannels.toNat * w) 0x00
      BuildsFrame (.frmBuildNormal c) s data (wordBytes w (if c then crc16 data else 0x0000)))

/-- R179 with the body R182: FRM_VERIFY_SHORT verifies two words. -/
def Obligations.VerifyShortChecksTwoWords : Prop :=
  encode .frmVerifyShort = 0x48000000 ∧
  ∀ s : State, (¬LegalWidth s → ∃ t, VerifyFails .frmVerifyShort s .errConfig [] t) ∧
    (LegalWidth s → VerifiesFrame .frmVerifyShort s 2 s.cfgWidth.toNat)

/-- R180 with the body R182: FRM_VERIFY_WRITE verifies three words. -/
def Obligations.VerifyWriteChecksThreeWords : Prop :=
  encode .frmVerifyWrite = 0x49000000 ∧
  ∀ s : State, (¬LegalWidth s → ∃ t, VerifyFails .frmVerifyWrite s .errConfig [] t) ∧
    (LegalWidth s → VerifiesFrame .frmVerifyWrite s 3 s.cfgWidth.toNat)

/-- R181 with the body R182: FRM_VERIFY_NORMAL verifies N + 2 words. -/
def Obligations.VerifyNormalChecksAllWords : Prop :=
  encode .frmVerifyNormal = 0x4A000000 ∧
  ∀ s : State, (¬LegalWidth s → ∃ t, VerifyFails .frmVerifyNormal s .errConfig [] t) ∧
    (LegalWidth s →
      VerifiesFrame .frmVerifyNormal s (s.cfgChannels.toNat + 2) s.cfgWidth.toNat)

/-- The spec infers (build-verify agreement): a frame built with C = 1 verifies under the same shape
and configuration while its bytes stand, and reports the same CRC and its command word. -/
def Obligations.BuiltFramesVerify : Prop :=
  ∀ (sh : Shape) (s t u : State), exec (sh.build true) s = .next t → t.code = .ok →
    SameFrameSetup t u →
    (∀ x : Nat, t.arg0.toNat ≤ x →
      x < t.arg0.toNat + sh.words t.cfgChannels.toNat * t.cfgWidth.toNat →
      u.ramByte x = t.ramByte x) →
    ∃ v, exec sh.verify u = .next v ∧ v.code = .ok ∧ v.frmValid = true ∧ v.frmCrc = t.frmCrc ∧
      v.frmResp = s.arg2.extractLsb' 0 16

/-- The spec infers: flip any one bit of a built frame's data portion or of the two value bytes of its
CRC word and the verify reports ERR_CRC; a flip in the CRC word's padding is not detected. -/
def Obligations.VerifyDetectsOneFlippedBit : Prop :=
  ∀ (sh : Shape) (s t u : State) (k i : Nat), exec (sh.build true) s = .next t → t.code = .ok →
    SameFrameSetup t u →
    k < sh.words t.cfgChannels.toNat * t.cfgWidth.toNat → i < 8 →
    OneBitFlipped t.arg0.toNat (sh.words t.cfgChannels.toNat * t.cfgWidth.toNat) k i t u →
    (k < (sh.words t.cfgChannels.toNat - 1) * t.cfgWidth.toNat + 2 →
      ∃ v, exec sh.verify u = .next v ∧ v.code = .errCrc ∧ v.frmValid = false ∧ v.frmResp = 0) ∧
    ((sh.words t.cfgChannels.toNat - 1) * t.cfgWidth.toNat + 2 ≤ k →
      ∃ v, exec sh.verify u = .next v ∧ v.code = .ok ∧ v.frmValid = true)

/-- R184: FRM_WORD j reads word j of the frame at ARG0 as a control value and as a channel value; a
word past the RAM raises ERR_BOUNDS. -/
def Obligations.FrmWordReadsTheRawWord : Prop :=
  ∀ (j : Byte) (s : State),
    encode (.frmWord j) = 0x50000000#32 ||| j.setWidth 32 ∧
    (¬LegalWidth s → RaisesOnly (.frmWord j) s .errConfig) ∧
    (LegalWidth s →
      let w := s.cfgWidth.toNat
      let a := s.arg0.toNat + j.toNat * w
      (a + w ≤ s.params.ramSize →
        ∃ t, Completes (.frmWord j) s .ok [.frmWval, .frmSval] t ∧
          t.frmWval = s.ramByte a ++ s.ramByte (a + 1) ∧ t.frmSval = chan32 w (s.ram.bytes a w) ∧
          SameRam s t) ∧
      (s.params.ramSize < a + w → RaisesOnly (.frmWord j) s .errBounds))

/-- The spec infers: the channel value "equals sext_32 of the (8·W)-bit big-endian value" of the W
bytes. -/
def Obligations.ChannelValueIsSignExtended : Prop :=
  ∀ (w : Nat) (bytes : List Byte), w = 2 ∨ w = 3 ∨ w = 4 → bytes.length = w →
    chan32 w bytes =
      (BitVec.ofNat (8 * w) (bytes.foldl (fun acc b => acc * 256 + b.toNat) 0)).signExtend 32

/-! ### The host port (spec/20_memory.md) -/

/-- From R65: a sized write to a register stores the bits R65 names and nothing else, a read returns
the register's value, an unlisted offset ignores writes and reads 0, and CMD reads 0. That the answer
to a write carries the data 0 is the model's choice (log 4), and so is the list of accesses (log 3). -/
def Obligations.RegisterWindowFollowsItsMap : Prop :=
  (∀ (s : State) (r : Reg) (v : Word) (rest : List Access), r ≠ .cmd →
    s.host = .write (s.params.base + r.offset) 32 v :: rest →
    ∃ t, step s = .next t ∧ t.host = rest ∧ t.resp = { status := .okay, data := 0 } ∧
      t.readReg r = (match r with
        | .cfg => v &&& 0x0000FF07
        | .crcAcc => v &&& 0x0000FFFF
        | .arg0 | .arg1 | .arg2 | .arg3 => v
        | _ => s.readReg r) ∧
      (∀ q : Reg, q ≠ r → t.readReg q = s.readReg q) ∧ SameRam s t ∧ t.params = s.params) ∧
  (∀ (s : State) (off : Nat) (v : Word) (rest : List Access), off < 0x10000 → off % 4 = 0 →
    (∀ r : Reg, r.offset ≠ off) → s.host = .write (s.params.base + off) 32 v :: rest →
    step s = .next { s with host := rest, resp := { status := .okay, data := 0 } }) ∧
  (∀ (s : State) (r : Reg) (rest : List Access),
    s.host = .read (s.params.base + r.offset) 32 :: rest →
    step s = .next { s with
      host := rest
      resp := { status := .okay, data := if r = .cmd then 0 else s.readReg r } }) ∧
  (∀ (s : State) (off : Nat) (rest : List Access), off < 0x10000 → off % 4 = 0 →
    (∀ r : Reg, r.offset ≠ off) → s.host = .read (s.params.base + off) 32 :: rest →
    step s = .next { s with host := rest, resp := { status := .okay, data := 0 } })

/-- What a read of each register shows: the fields of STATUS, CFG, ENC_STATE and DEC_STATE in their
bits (R24, R25, R28, R32), every other register's value in its bits (R26, R27, R29, R30, R33, R34, R36
to R39), reserved bits 0, CMD 0; and the codings of ST (R28, R32). -/
def Obligations.RegisterFieldsStandInTheirBits : Prop :=
  (EncSt.done.toBits = 0 ∧ EncSt.code.toBits = 1 ∧ EncSt.data.toBits = 2 ∧ EncSt.term.toBits = 3) ∧
  (DecSt.idle.toBits = 0 ∧ DecSt.block.toBits = 1 ∧ DecSt.pblock.toBits = 2) ∧
  ∀ s : State,
    (s.readReg .status).extractLsb' 0 8 = s.code.toByte ∧
    (s.readReg .status).getLsbD 8 = s.err ∧ (s.readReg .status).getLsbD 9 = s.frmValid ∧
    (s.readReg .status).extractLsb' 10 22 = 0 ∧
    (s.readReg .cfg).extractLsb' 0 3 = s.cfgWidth ∧ (s.readReg .cfg).extractLsb' 3 5 = 0 ∧
    (s.readReg .cfg).extractLsb' 8 8 = s.cfgChannels ∧ (s.readReg .cfg).extractLsb' 16 16 = 0 ∧
    (s.readReg .encState).extractLsb' 0 2 = s.encSt.toBits ∧
    (s.readReg .encState).extractLsb' 2 6 = 0 ∧
    (s.readReg .encState).extractLsb' 8 8 = s.encBlk ∧
    (s.readReg .encState).getLsbD 16 = s.encZero ∧
    (s.readReg .encState).extractLsb' 17 15 = 0 ∧
    (s.readReg .decState).extractLsb' 0 2 = s.decSt.toBits ∧
    (s.readReg .decState).extractLsb' 2 6 = 0 ∧
    (s.readReg .decState).extractLsb' 8 8 = s.decCnt ∧
    (s.readReg .decState).getLsbD 16 = s.decOvf ∧
    (s.readReg .decState).extractLsb' 17 15 = 0 ∧
    s.readReg .cmd = 0 ∧
    s.readReg .arg0 = s.arg0 ∧ s.readReg .arg1 = s.arg1 ∧ s.readReg .arg2 = s.arg2 ∧
    s.readReg .arg3 = s.arg3 ∧ s.readReg .crcAcc = s.crcAcc.setWidth 32 ∧
    s.readReg .encPtr = s.encPtr ∧ s.readReg .encRem = s.encRem ∧
    s.readReg .encOut = s.encOut.setWidth 32 ∧
    s.readReg .decBase = s.decBase ∧ s.readReg .decCap = s.decCap ∧ s.readReg .decLen = s.decLen ∧
    s.readReg .frmLen = s.frmLen ∧ s.readReg .frmCrc = s.frmCrc.setWidth 32 ∧
    s.readReg .frmResp = s.frmResp.setWidth 32 ∧ s.readReg .frmWval = s.frmWval.setWidth 32 ∧
    s.readReg .frmSval = s.frmSval

/-- From R221 and R63: an access of the wrong width or alignment is a bus error; it changes no
register, no RAM byte and no STATUS field, and a read returns 0. That the answer to a write carries
the data 0 too is the model's choice (log 4), and that the address alone decides the window of an
access that runs past it is the model's inference (log 7). -/
def Obligations.BadAccessIsABusError : Prop :=
  ∀ (s : State) (off bits : Nat) (a : Access) (rest : List Access),
    (a = .read (s.params.base + off) bits ∨ ∃ v, a = .write (s.params.base + off) bits v) →
    (off < 0x10000 ∧ (bits ≠ 32 ∨ off % 4 ≠ 0)) ∨
      (0x10000 ≤ off ∧ off < 0x20000 ∧ bits ≠ 8) →
    s.host = a :: rest →
    step s = .next { s with host := rest, resp := { status := .busError, data := 0 } }

/-- From R64: the RAM window reads and writes single bytes, ignores addresses at or past RAM_SIZE, and
never changes a register or STATUS. The model's choice: an 8-bit write takes the low 8 bits of the
32-bit value an access carries (log 6), a read gives its byte in the low bits of the data, and the
answer to a write carries the data 0 (log 4). -/
def Obligations.RamWindowIsByteWide : Prop :=
  ∀ (s : State) (a : Nat) (rest : List Access), a < 0x10000 →
    (∀ bits, s.host = .read (s.params.base + 0x10000 + a) bits :: rest →
      step s = .next { s with
        host := rest
        resp :=
          if bits = 8 then
            { status := .okay
              data := if a < s.params.ramSize then (s.ramByte a).setWidth 32 else 0 }
          else { status := .busError, data := 0 } }) ∧
    (∀ v, s.host = .write (s.params.base + 0x10000 + a) 8 v :: rest → a < s.params.ramSize →
      ∃ t, step s = .next t ∧ t.ramByte a = v.extractLsb' 0 8 ∧ SameRamOutside a 1 s t ∧
        (∀ r : Reg, t.readReg r = s.readReg r) ∧ t.params = s.params ∧ t.host = rest ∧
        t.resp = { status := .okay, data := 0 }) ∧
    (∀ v, s.host = .write (s.params.base + 0x10000 + a) 8 v :: rest → s.params.ramSize ≤ a →
      step s = .next { s with host := rest, resp := { status := .okay, data := 0 } }) ∧
    (∀ bits v, s.host = .write (s.params.base + 0x10000 + a) bits v :: rest → bits ≠ 8 →
      step s = .next { s with host := rest, resp := { status := .busError, data := 0 } })

/-- From R66: no read has a side effect, and writing one value twice to one place is writing it once,
but for CMD. -/
def Obligations.ReadsAndRepeatedWritesAreIdempotent : Prop :=
  (∀ (s : State) (addr bits : Nat) (rest : List Access), s.host = .read addr bits :: rest →
    ∃ r, step s = .next { s with host := rest, resp := r }) ∧
  (∀ (s : State) (addr bits : Nat) (v : Word) (rest : List Access), addr ≠ s.params.base →
    s.host = .write addr bits v :: .write addr bits v :: rest →
    ∃ t, step s = .next t ∧ step t = .next { t with host := rest })

/-- The model's own (logs 3, 4 and 5): with no access to come the block holds its state (R16: "The block
never steps on its own"), and an access outside its window leaves it as it is, unanswered. -/
def Obligations.SilentOrForeignHostChangesNothing : Prop :=
  (∀ s : State, s.host = [] → step s = .next s) ∧
  (∀ (s : State) (addr bits : Nat) (v : Word) (a : Access) (rest : List Access),
    a = .read addr bits ∨ a = .write addr bits v →
    addr < s.params.base ∨ s.params.base + 0x20000 ≤ addr → s.host = a :: rest →
    step s = .next { s with host := rest, resp := { status := .unclaimed, data := 0 } })

/-! ### Whole-machine rules -/

/-- The spec infers R31 and R35 "After reset and after every command"; with them the canonical form of
the RAM, the legal parameters and the report registers: every step from a state that meets the
invariant ends in one. -/
def Obligations.StepKeepsTheInvariant : Prop :=
  ∀ s t : State, Inv s → step s = .next t → Inv t

/-- A power-on reset meets the invariant, for legal parameters and any RAM contents in canonical form;
so does the reset state. -/
def Obligations.ResetMeetsTheInvariant : Prop :=
  (∀ (p : Params) (ram : Memory), p.wellFormed = true → ram.wf = true →
    (∀ c ∈ ram, c.1 < p.ramSize) → Inv (State.powerOn p ram)) ∧ Inv State.reset

/-- The spec says "no primitive is called out of range" (R13): from a state that meets the invariant
every step answers a next state, so no run from reset stops. -/
def Obligations.NoStepStopsUnderTheInvariant : Prop :=
  ∀ s : State, Inv s → ∃ t, step s = .next t

/-- R213: an error code sets ERR, that of an illegal word included; a command that does not report an
error keeps it; only CLR_ERR, SOFT_RESET and the power-on reset clear it. -/
def Obligations.ErrIsSticky : Prop :=
  (∀ (i : Instr) (s t : State), exec i s = .next t →
    (t.code.isError = true → t.err = true) ∧
    (i ≠ .clrErr → i ≠ .softReset → s.err = true → t.err = true) ∧
    (t.code.isError = false → s.err = false → t.err = false)) ∧
  (∀ s : State, (∃ t, exec .clrErr s = .next t ∧ t.err = false) ∧
    ∃ t, exec .softReset s = .next t ∧ t.err = false) ∧
  (∀ (p : Params) (ram : Memory), (State.powerOn p ram).err = false) ∧
  ∀ (w : Word) (s t : State), (∀ i, decode w ≠ .ok i) → runWord w s = .next t →
    t.code.isError = true ∧ t.err = true

/-- R211: the codes and their values, bit 7 marking the errors, which command may report which, and
the code of a word that is no command. -/
def Obligations.CodesAreThoseOfTheTable : Prop :=
  ([Code.ok, .encByte, .encEnd, .decStart, .decData, .decComplete, .errIllegal, .errConfig,
      .errBounds, .errCrc, .errMalformed, .errOverflow, .errOvfEnd].map Code.toByte =
    [0x00, 0x01, 0x02, 0x03, 0x04, 0x05, 0x80, 0x81, 0x82, 0x83, 0x84, 0x85, 0x86]) ∧
  (∀ c : Code, c.isError = true ↔ 0x80 ≤ c.toByte.toNat) ∧
  (∀ (i : Instr) (s t : State), exec i s = .next t → t.code ∈ reportsOf i.mnemonic) ∧
  ∀ (w : Word) (s t : State), (∀ i, decode w ≠ .ok i) → runWord w s = .next t →
    t.code = .errIllegal

/-- From R7 ("None of them can change while the block runs"): no step changes a parameter. -/
def Obligations.ParametersNeverChange : Prop :=
  ∀ s t : State, step s = .next t → t.params = s.params

/-- From R20 and R24: no command writes an operand register or CFG. SOFT_RESET is left out: R201
resets them (log 11). -/
def Obligations.CommandsWriteNoOperands : Prop :=
  ∀ (i : Instr) (s t : State), i ≠ .softReset → exec i s = .next t →
    t.arg0 = s.arg0 ∧ t.arg1 = s.arg1 ∧ t.arg2 = s.arg2 ∧ t.arg3 = s.arg3 ∧
      t.cfgWidth = s.cfgWidth ∧ t.cfgChannels = s.cfgChannels

/-- From R143 and R178: the only commands that write the RAM are DEC_PUSH and FRM_BUILD_*. -/
def Obligations.OnlyPushAndBuildWriteRam : Prop :=
  ∀ (i : Instr) (s t : State),
    i.mnemonic ∉ [Mnemonic.decPush, .frmBuildShort, .frmBuildWrite, .frmBuildNormal] →
    exec i s = .next t → SameRam s t

/-- From R24: CFG matters to the frame commands alone, and CHANNELS to the two normal ones alone.
SOFT_RESET is left out: R201 resets CFG (log 11). -/
def Obligations.OnlyFrameCommandsReadCfg : Prop :=
  (∀ (i : Instr) (s : State) (w : BitVec 3) (n : Byte),
    i.mnemonic ∈ [Mnemonic.nop, .clrErr, .crcInit, .crcByte, .crcSpan, .encStart, .encPull,
      .decReset, .decPush] →
    exec i { s with cfgWidth := w, cfgChannels := n } =
      Result.mapNext (fun t => { t with cfgWidth := w, cfgChannels := n }) (exec i s)) ∧
  (∀ (i : Instr) (s : State) (n : Byte),
    i.mnemonic ∉ [Mnemonic.softReset, .frmBuildNormal, .frmVerifyNormal] →
    exec i { s with cfgChannels := n } =
      Result.mapNext (fun t => { t with cfgChannels := n }) (exec i s))

/-- The spec says "no primitive is called out of range" (R13): a command is never refused, and it
faults (log 8) only as ENC_PULL or DEC_PUSH, only at an address past the RAM, and only in a state that
breaks R31 or R35. -/
def Obligations.FaultNeedsABrokenInvariant : Prop :=
  ∀ (i : Instr) (s : State), (∀ e, exec i s ≠ .refused e) ∧
    ∀ f, exec i s = .fault f →
      (∃ a, f = .ramOutOfRange a ∧ s.params.ramSize ≤ a) ∧
      ((i = .encPull ∧ ¬EncInv s) ∨ ((∃ b, i = .decPush b) ∧ ¬DecInv s))
end

