-- ==== Sys2Proof/Laws/Memory.lean ====
section
/-! SUPPORT. The laws of the data RAM: read over write, the canonical form kept by every memory
operation, and the bytes of a range. -/

namespace Sys2Proof.Machine

/-! ### Read over write -/

theorem Memory.read_enter (m : Memory) (x y : Nat) (v : Byte) (h : ∀ c ∈ m, c.1 ≠ x) :
    (Memory.enter m x v).read y = if y = x then v else m.read y := by
  induction m with
  | nil => simp [Memory.enter, Memory.read]
  | cons c rest ih =>
    obtain ⟨a, b⟩ := c
    have hax : a ≠ x := h _ List.mem_cons_self
    have hrest : ∀ c ∈ rest, c.1 ≠ x := fun c hc => h c (List.mem_cons_of_mem _ hc)
    by_cases hlt : x < a
    · simp [Memory.enter, hlt, Memory.read]
    · simp only [Memory.enter, hlt, if_false, Memory.read, ih hrest]
      by_cases hya : y = a
      · subst hya; simp [hax]
      · simp [hya]

theorem Memory.read_filter_ne (m : Memory) (x y : Nat) :
    Memory.read (m.filter fun c => c.1 != x) y = if y = x then unwrittenByte else m.read y := by
  induction m with
  | nil => simp [Memory.read]
  | cons c rest ih =>
    obtain ⟨a, b⟩ := c
    by_cases hax : a = x
    · subst hax
      simp only [List.filter, bne_self_eq_false, ih, Memory.read]
      by_cases hy : y = a <;> simp [hy]
    · have : (a != x) = true := by simpa using hax
      simp only [List.filter, this, Memory.read, ih]
      by_cases hy : y = a
      · subst hy; simp [hax]
      · simp [hy]

/-- A write changes the byte it names and no other. -/
@[simp] theorem Memory.read_write (m : Memory) (x y : Nat) (v : Byte) :
    (m.write x v).read y = if y = x then v else m.read y := by
  unfold Memory.write
  by_cases hv : v = unwrittenByte
  · simp [hv, Memory.read_filter_ne]
  · simp only [hv, if_false]
    rw [Memory.read_enter _ _ _ _ (by intro c hc; simpa using (List.mem_filter.1 hc).2),
      Memory.read_filter_ne]
    split <;> rfl

/-! ### The canonical form -/

/-- The canonical form, in words: addresses strictly rise, and no cell says what is read anyway. -/
theorem Memory.wf_iff (m : Memory) :
    m.wf = true ↔ m.Pairwise (fun c d => c.1 < d.1) ∧ ∀ c ∈ m, c.2 ≠ unwrittenByte := by
  induction m with
  | nil => simp [Memory.wf]
  | cons c rest ih =>
    obtain ⟨a, v⟩ := c
    cases rest with
    | nil => simp [Memory.wf]
    | cons d rest =>
      obtain ⟨b, w⟩ := d
      have hwf : Memory.wf ((a, v) :: (b, w) :: rest)
          = (v != unwrittenByte && decide (a < b) && Memory.wf ((b, w) :: rest)) := rfl
      rw [hwf, List.pairwise_cons]
      simp only [Bool.and_eq_true, bne_iff_ne, decide_eq_true_eq, ih]
      constructor
      · rintro ⟨⟨hv, hab⟩, hp, hn⟩
        refine ⟨⟨?_, hp⟩, List.forall_mem_cons.2 ⟨hv, hn⟩⟩
        intro e he
        rcases List.mem_cons.1 he with rfl | he
        · exact hab
        · exact lt_trans hab ((List.pairwise_cons.1 hp).1 e he)
      · rintro ⟨⟨hlt, hp⟩, hn⟩
        exact ⟨⟨hn _ List.mem_cons_self, hlt _ List.mem_cons_self⟩, hp,
          (List.forall_mem_cons.1 hn).2⟩

theorem Memory.mem_enter (m : Memory) (x : Nat) (v : Byte) (c : Host.Cell)
    (h : c ∈ Memory.enter m x v) : c = (x, v) ∨ c ∈ m := by
  induction m with
  | nil => simpa [Memory.enter] using h
  | cons d rest ih =>
    obtain ⟨a, b⟩ := d
    by_cases hlt : x < a
    · simpa [Memory.enter, hlt] using h
    · simp only [Memory.enter, hlt, if_false, List.mem_cons] at h ⊢
      rcases h with h | h
      · exact .inr (.inl h)
      · exact (ih h).imp_right .inr

theorem Memory.pairwise_enter (m : Memory) (x : Nat) (v : Byte) (h : ∀ c ∈ m, c.1 ≠ x)
    (hp : m.Pairwise fun c d => c.1 < d.1) :
    (Memory.enter m x v).Pairwise fun c d => c.1 < d.1 := by
  induction m with
  | nil => simp [Memory.enter]
  | cons d rest ih =>
    obtain ⟨a, b⟩ := d
    have hax : a ≠ x := h _ List.mem_cons_self
    have ⟨ha, hr⟩ := List.pairwise_cons.1 hp
    by_cases hlt : x < a
    · simp only [Memory.enter, hlt, if_true]
      refine List.pairwise_cons.2 ⟨?_, hp⟩
      intro c hc
      rcases List.mem_cons.1 hc with rfl | hc
      · exact hlt
      · exact lt_trans hlt (ha c hc)
    · simp only [Memory.enter, hlt, if_false]
      refine List.pairwise_cons.2 ⟨?_, ih (fun c hc => h c (List.mem_cons_of_mem _ hc)) hr⟩
      intro c hc
      rcases Memory.mem_enter _ _ _ _ hc with rfl | hc
      · show a < x; omega
      · exact ha c hc

/-- Every memory operation keeps the canonical form: `write` is the only one that makes a memory. -/
theorem Memory.wf_write (m : Memory) (x : Nat) (v : Byte) (h : m.wf = true) :
    (m.write x v).wf = true := by
  obtain ⟨hp, hn⟩ := (Memory.wf_iff m).1 h
  have hp' := hp.filter (fun c => c.1 != x)
  have hn' : ∀ c ∈ m.filter (fun c => c.1 != x), c.2 ≠ unwrittenByte :=
    fun c hc => hn c (List.mem_of_mem_filter hc)
  have hx : ∀ c ∈ m.filter (fun c => c.1 != x), c.1 ≠ x := by
    intro c hc; simpa using (List.mem_filter.1 hc).2
  rw [Memory.wf_iff]
  unfold Memory.write
  by_cases hv : v = unwrittenByte
  · simpa [hv] using ⟨hp', by simpa using hn'⟩
  · simp only [hv, if_false]
    refine ⟨Memory.pairwise_enter _ _ _ hx hp', fun c hc => ?_⟩
    rcases Memory.mem_enter _ _ _ _ hc with rfl | hc
    · exact hv
    · exact hn' c hc

/-- A write lists no address but the one it names and those listed before. -/
theorem Memory.mem_write (m : Memory) (x : Nat) (v : Byte) (c : Host.Cell) (h : c ∈ m.write x v) :
    c.1 = x ∨ c ∈ m := by
  unfold Memory.write at h
  by_cases hv : v = unwrittenByte
  · rw [if_pos hv] at h
    exact .inr (List.mem_of_mem_filter h)
  · simp only [hv, if_false] at h
    rcases Memory.mem_enter _ _ _ _ h with rfl | h
    · exact .inl rfl
    · exact .inr (List.mem_of_mem_filter h)

/-! ### The bytes of a range -/

@[simp] theorem Memory.length_bytes (m : Memory) (a n : Nat) : (m.bytes a n).length = n := by
  induction n generalizing a with
  | zero => rfl
  | succ n ih => simp [Memory.bytes, ih]

theorem Memory.getElem_bytes (m : Memory) (a n k : Nat) (h : k < (m.bytes a n).length) :
    (m.bytes a n)[k] = m.read (a + k) := by
  induction n generalizing a k with
  | zero => simp [Memory.bytes] at h
  | succ n ih =>
    cases k with
    | zero => rfl
    | succ k =>
      have := ih (a + 1) k (by simpa [Memory.bytes] using h)
      simpa [Memory.bytes, Nat.add_assoc, Nat.add_comm 1 k] using this

/-- A range is its first part followed by the rest. -/
theorem Memory.bytes_add (m : Memory) (a n k : Nat) :
    m.bytes a (n + k) = m.bytes a n ++ m.bytes (a + n) k := by
  induction n generalizing a with
  | zero => simp [Memory.bytes]
  | succ n ih =>
    have : n + 1 + k = (n + k) + 1 := by omega
    rw [this]
    simp [Memory.bytes, ih (a + 1), Nat.add_assoc, Nat.add_comm 1 n]

/-- The bytes of a range depend on the bytes of that range alone. -/
theorem Memory.bytes_congr (m m' : Memory) (a n : Nat)
    (h : ∀ x, a ≤ x → x < a + n → m.read x = m'.read x) : m.bytes a n = m'.bytes a n := by
  induction n generalizing a with
  | zero => rfl
  | succ n ih =>
    have h0 := h a (Nat.le_refl _) (by omega)
    simp [Memory.bytes, h0, ih (a + 1) fun x h1 h2 => h x (by omega) (by omega)]

/-- Writing bytes from an address up. -/
def Memory.writeBytes (m : Memory) (a : Nat) : List Byte → Memory
  | [] => m
  | v :: vs => Memory.writeBytes (m.write a v) (a + 1) vs

/-- What a range write changes: the bytes of the range, and no other. -/
theorem Memory.read_writeBytes (m : Memory) (a : Nat) (vs : List Byte) (x : Nat) :
    (m.writeBytes a vs).read x =
      if a ≤ x ∧ x < a + vs.length then vs.getD (x - a) 0 else m.read x := by
  induction vs generalizing m a with
  | nil => simp [Memory.writeBytes]
  | cons v vs ih =>
    simp only [Memory.writeBytes, ih, Memory.read_write, List.length_cons]
    by_cases hx : x = a
    · subst hx
      simp
    · by_cases hr : a + 1 ≤ x ∧ x < a + 1 + vs.length
      · have h2 : a ≤ x ∧ x < a + (vs.length + 1) := by omega
        obtain ⟨k, rfl⟩ : ∃ k, x = a + 1 + k := ⟨x - (a + 1), by omega⟩
        have e1 : a + 1 + k - (a + 1) = k := by omega
        have e2 : a + 1 + k - a = k + 1 := by omega
        simp [hr, h2, e1, e2]
      · have h2 : ¬ (a ≤ x ∧ x < a + (vs.length + 1)) := by omega
        rw [if_neg hr, if_neg h2, if_neg hx]

theorem Memory.wf_writeBytes (m : Memory) (a : Nat) (vs : List Byte) (h : m.wf = true) :
    (m.writeBytes a vs).wf = true := by
  induction vs generalizing m a with
  | nil => exact h
  | cons v vs ih => exact ih _ _ (Memory.wf_write m a v h)

/-- A range that was written reads as the bytes written. -/
theorem Memory.bytes_writeBytes (m : Memory) (a : Nat) (vs : List Byte) :
    (m.writeBytes a vs).bytes a vs.length = vs := by
  apply List.ext_getElem (by simp)
  intro k h1 h2
  rw [Memory.getElem_bytes, Memory.read_writeBytes]
  simp [h2, List.getD_eq_getElem?_getD]

theorem Memory.mem_writeBytes (m : Memory) (a : Nat) (vs : List Byte) (c : Host.Cell)
    (h : c ∈ m.writeBytes a vs) : (a ≤ c.1 ∧ c.1 < a + vs.length) ∨ c ∈ m := by
  induction vs generalizing m a with
  | nil => exact .inr h
  | cons v vs ih =>
    rcases ih _ _ h with h | h
    · exact .inl (by simp only [List.length_cons]; omega)
    · rcases Memory.mem_write _ _ _ _ h with h | h
      · exact .inl (by simp only [List.length_cons]; omega)
      · exact .inr h

end Sys2Proof.Machine
end

