-- ==== Sys2Proof/Laws/State.lean ====
section
/-! SUPPORT. The small lemmas of the named updates of State, one per field per update, so that no
later proof unfolds a record update: completing a command, answering an access, and the named
updates of the decoder, the encoder and the frame codec. -/

namespace Sys2Proof.Machine

/-! ### `status <- c` (R13, R213) -/

@[simp] theorem State.complete_params (s : State) (c : Code) :
    (s.complete c).params = s.params := rfl
@[simp] theorem State.complete_code (s : State) (c : Code) : (s.complete c).code = c := rfl
@[simp] theorem State.complete_err (s : State) (c : Code) :
    (s.complete c).err = (s.err || c.isError) := rfl
@[simp] theorem State.complete_frmValid (s : State) (c : Code) :
    (s.complete c).frmValid = s.frmValid := rfl
@[simp] theorem State.complete_cfgWidth (s : State) (c : Code) :
    (s.complete c).cfgWidth = s.cfgWidth := rfl
@[simp] theorem State.complete_cfgChannels (s : State) (c : Code) :
    (s.complete c).cfgChannels = s.cfgChannels := rfl
@[simp] theorem State.complete_arg0 (s : State) (c : Code) : (s.complete c).arg0 = s.arg0 := rfl
@[simp] theorem State.complete_arg1 (s : State) (c : Code) : (s.complete c).arg1 = s.arg1 := rfl
@[simp] theorem State.complete_arg2 (s : State) (c : Code) : (s.complete c).arg2 = s.arg2 := rfl
@[simp] theorem State.complete_arg3 (s : State) (c : Code) : (s.complete c).arg3 = s.arg3 := rfl
@[simp] theorem State.complete_crcAcc (s : State) (c : Code) :
    (s.complete c).crcAcc = s.crcAcc := rfl
@[simp] theorem State.complete_encSt (s : State) (c : Code) : (s.complete c).encSt = s.encSt := rfl
@[simp] theorem State.complete_encBlk (s : State) (c : Code) :
    (s.complete c).encBlk = s.encBlk := rfl
@[simp] theorem State.complete_encZero (s : State) (c : Code) :
    (s.complete c).encZero = s.encZero := rfl
@[simp] theorem State.complete_encPtr (s : State) (c : Code) :
    (s.complete c).encPtr = s.encPtr := rfl
@[simp] theorem State.complete_encRem (s : State) (c : Code) :
    (s.complete c).encRem = s.encRem := rfl
@[simp] theorem State.complete_encOut (s : State) (c : Code) :
    (s.complete c).encOut = s.encOut := rfl
@[simp] theorem State.complete_decSt (s : State) (c : Code) : (s.complete c).decSt = s.decSt := rfl
@[simp] theorem State.complete_decCnt (s : State) (c : Code) :
    (s.complete c).decCnt = s.decCnt := rfl
@[simp] theorem State.complete_decOvf (s : State) (c : Code) :
    (s.complete c).decOvf = s.decOvf := rfl
@[simp] theorem State.complete_decBase (s : State) (c : Code) :
    (s.complete c).decBase = s.decBase := rfl
@[simp] theorem State.complete_decCap (s : State) (c : Code) :
    (s.complete c).decCap = s.decCap := rfl
@[simp] theorem State.complete_decLen (s : State) (c : Code) :
    (s.complete c).decLen = s.decLen := rfl
@[simp] theorem State.complete_frmLen (s : State) (c : Code) :
    (s.complete c).frmLen = s.frmLen := rfl
@[simp] theorem State.complete_frmCrc (s : State) (c : Code) :
    (s.complete c).frmCrc = s.frmCrc := rfl
@[simp] theorem State.complete_frmResp (s : State) (c : Code) :
    (s.complete c).frmResp = s.frmResp := rfl
@[simp] theorem State.complete_frmWval (s : State) (c : Code) :
    (s.complete c).frmWval = s.frmWval := rfl
@[simp] theorem State.complete_frmSval (s : State) (c : Code) :
    (s.complete c).frmSval = s.frmSval := rfl
@[simp] theorem State.complete_ram (s : State) (c : Code) : (s.complete c).ram = s.ram := rfl
@[simp] theorem State.complete_host (s : State) (c : Code) : (s.complete c).host = s.host := rfl
@[simp] theorem State.complete_resp (s : State) (c : Code) : (s.complete c).resp = s.resp := rfl

/-! ### The answer to a host access -/

@[simp] theorem State.answer_params (s : State) (b : BusStatus) (d : Word) :
    (s.answer b d).params = s.params := rfl
@[simp] theorem State.answer_code (s : State) (b : BusStatus) (d : Word) :
    (s.answer b d).code = s.code := rfl
@[simp] theorem State.answer_err (s : State) (b : BusStatus) (d : Word) :
    (s.answer b d).err = s.err := rfl
@[simp] theorem State.answer_frmValid (s : State) (b : BusStatus) (d : Word) :
    (s.answer b d).frmValid = s.frmValid := rfl
@[simp] theorem State.answer_cfgWidth (s : State) (b : BusStatus) (d : Word) :
    (s.answer b d).cfgWidth = s.cfgWidth := rfl
@[simp] theorem State.answer_cfgChannels (s : State) (b : BusStatus) (d : Word) :
    (s.answer b d).cfgChannels = s.cfgChannels := rfl
@[simp] theorem State.answer_arg0 (s : State) (b : BusStatus) (d : Word) :
    (s.answer b d).arg0 = s.arg0 := rfl
@[simp] theorem State.answer_arg1 (s : State) (b : BusStatus) (d : Word) :
    (s.answer b d).arg1 = s.arg1 := rfl
@[simp] theorem State.answer_arg2 (s : State) (b : BusStatus) (d : Word) :
    (s.answer b d).arg2 = s.arg2 := rfl
@[simp] theorem State.answer_arg3 (s : State) (b : BusStatus) (d : Word) :
    (s.answer b d).arg3 = s.arg3 := rfl
@[simp] theorem State.answer_crcAcc (s : State) (b : BusStatus) (d : Word) :
    (s.answer b d).crcAcc = s.crcAcc := rfl
@[simp] theorem State.answer_encSt (s : State) (b : BusStatus) (d : Word) :
    (s.answer b d).encSt = s.encSt := rfl
@[simp] theorem State.answer_encBlk (s : State) (b : BusStatus) (d : Word) :
    (s.answer b d).encBlk = s.encBlk := rfl
@[simp] theorem State.answer_encZero (s : State) (b : BusStatus) (d : Word) :
    (s.answer b d).encZero = s.encZero := rfl
@[simp] theorem State.answer_encPtr (s : State) (b : BusStatus) (d : Word) :
    (s.answer b d).encPtr = s.encPtr := rfl
@[simp] theorem State.answer_encRem (s : State) (b : BusStatus) (d : Word) :
    (s.answer b d).encRem = s.encRem := rfl
@[simp] theorem State.answer_encOut (s : State) (b : BusStatus) (d : Word) :
    (s.answer b d).encOut = s.encOut := rfl
@[simp] theorem State.answer_decSt (s : State) (b : BusStatus) (d : Word) :
    (s.answer b d).decSt = s.decSt := rfl
@[simp] theorem State.answer_decCnt (s : State) (b : BusStatus) (d : Word) :
    (s.answer b d).decCnt = s.decCnt := rfl
@[simp] theorem State.answer_decOvf (s : State) (b : BusStatus) (d : Word) :
    (s.answer b d).decOvf = s.decOvf := rfl
@[simp] theorem State.answer_decBase (s : State) (b : BusStatus) (d : Word) :
    (s.answer b d).decBase = s.decBase := rfl
@[simp] theorem State.answer_decCap (s : State) (b : BusStatus) (d : Word) :
    (s.answer b d).decCap = s.decCap := rfl
@[simp] theorem State.answer_decLen (s : State) (b : BusStatus) (d : Word) :
    (s.answer b d).decLen = s.decLen := rfl
@[simp] theorem State.answer_frmLen (s : State) (b : BusStatus) (d : Word) :
    (s.answer b d).frmLen = s.frmLen := rfl
@[simp] theorem State.answer_frmCrc (s : State) (b : BusStatus) (d : Word) :
    (s.answer b d).frmCrc = s.frmCrc := rfl
@[simp] theorem State.answer_frmResp (s : State) (b : BusStatus) (d : Word) :
    (s.answer b d).frmResp = s.frmResp := rfl
@[simp] theorem State.answer_frmWval (s : State) (b : BusStatus) (d : Word) :
    (s.answer b d).frmWval = s.frmWval := rfl
@[simp] theorem State.answer_frmSval (s : State) (b : BusStatus) (d : Word) :
    (s.answer b d).frmSval = s.frmSval := rfl
@[simp] theorem State.answer_ram (s : State) (b : BusStatus) (d : Word) :
    (s.answer b d).ram = s.ram := rfl
@[simp] theorem State.answer_host (s : State) (b : BusStatus) (d : Word) :
    (s.answer b d).host = s.host := rfl
@[simp] theorem State.answer_resp (s : State) (b : BusStatus) (d : Word) :
    (s.answer b d).resp = BusResult.mk b d := rfl

/-! ### The decoder back in IDLE (R145, R148) -/

@[simp] theorem State.toIdle_params (s : State) : (s.toIdle).params = s.params := rfl
@[simp] theorem State.toIdle_code (s : State) : (s.toIdle).code = s.code := rfl
@[simp] theorem State.toIdle_err (s : State) : (s.toIdle).err = s.err := rfl
@[simp] theorem State.toIdle_frmValid (s : State) : (s.toIdle).frmValid = s.frmValid := rfl
@[simp] theorem State.toIdle_cfgWidth (s : State) : (s.toIdle).cfgWidth = s.cfgWidth := rfl
@[simp] theorem State.toIdle_cfgChannels (s : State) : (s.toIdle).cfgChannels = s.cfgChannels := rfl
@[simp] theorem State.toIdle_arg0 (s : State) : (s.toIdle).arg0 = s.arg0 := rfl
@[simp] theorem State.toIdle_arg1 (s : State) : (s.toIdle).arg1 = s.arg1 := rfl
@[simp] theorem State.toIdle_arg2 (s : State) : (s.toIdle).arg2 = s.arg2 := rfl
@[simp] theorem State.toIdle_arg3 (s : State) : (s.toIdle).arg3 = s.arg3 := rfl
@[simp] theorem State.toIdle_crcAcc (s : State) : (s.toIdle).crcAcc = s.crcAcc := rfl
@[simp] theorem State.toIdle_encSt (s : State) : (s.toIdle).encSt = s.encSt := rfl
@[simp] theorem State.toIdle_encBlk (s : State) : (s.toIdle).encBlk = s.encBlk := rfl
@[simp] theorem State.toIdle_encZero (s : State) : (s.toIdle).encZero = s.encZero := rfl
@[simp] theorem State.toIdle_encPtr (s : State) : (s.toIdle).encPtr = s.encPtr := rfl
@[simp] theorem State.toIdle_encRem (s : State) : (s.toIdle).encRem = s.encRem := rfl
@[simp] theorem State.toIdle_encOut (s : State) : (s.toIdle).encOut = s.encOut := rfl
@[simp] theorem State.toIdle_decSt (s : State) : (s.toIdle).decSt = .idle := rfl
@[simp] theorem State.toIdle_decCnt (s : State) : (s.toIdle).decCnt = 0 := rfl
@[simp] theorem State.toIdle_decOvf (s : State) : (s.toIdle).decOvf = false := rfl
@[simp] theorem State.toIdle_decBase (s : State) : (s.toIdle).decBase = s.decBase := rfl
@[simp] theorem State.toIdle_decCap (s : State) : (s.toIdle).decCap = s.decCap := rfl
@[simp] theorem State.toIdle_decLen (s : State) : (s.toIdle).decLen = s.decLen := rfl
@[simp] theorem State.toIdle_frmLen (s : State) : (s.toIdle).frmLen = s.frmLen := rfl
@[simp] theorem State.toIdle_frmCrc (s : State) : (s.toIdle).frmCrc = s.frmCrc := rfl
@[simp] theorem State.toIdle_frmResp (s : State) : (s.toIdle).frmResp = s.frmResp := rfl
@[simp] theorem State.toIdle_frmWval (s : State) : (s.toIdle).frmWval = s.frmWval := rfl
@[simp] theorem State.toIdle_frmSval (s : State) : (s.toIdle).frmSval = s.frmSval := rfl
@[simp] theorem State.toIdle_ram (s : State) : (s.toIdle).ram = s.ram := rfl
@[simp] theorem State.toIdle_host (s : State) : (s.toIdle).host = s.host := rfl
@[simp] theorem State.toIdle_resp (s : State) : (s.toIdle).resp = s.resp := rfl

/-! ### A failing verify (R182) -/

@[simp] theorem State.rejectFrame_params (s : State) : (s.rejectFrame).params = s.params := rfl
@[simp] theorem State.rejectFrame_code (s : State) : (s.rejectFrame).code = s.code := rfl
@[simp] theorem State.rejectFrame_err (s : State) : (s.rejectFrame).err = s.err := rfl
@[simp] theorem State.rejectFrame_frmValid (s : State) : (s.rejectFrame).frmValid = false := rfl
@[simp] theorem State.rejectFrame_cfgWidth (s : State) :
    (s.rejectFrame).cfgWidth = s.cfgWidth := rfl
@[simp] theorem State.rejectFrame_cfgChannels (s : State) :
    (s.rejectFrame).cfgChannels = s.cfgChannels := rfl
@[simp] theorem State.rejectFrame_arg0 (s : State) : (s.rejectFrame).arg0 = s.arg0 := rfl
@[simp] theorem State.rejectFrame_arg1 (s : State) : (s.rejectFrame).arg1 = s.arg1 := rfl
@[simp] theorem State.rejectFrame_arg2 (s : State) : (s.rejectFrame).arg2 = s.arg2 := rfl
@[simp] theorem State.rejectFrame_arg3 (s : State) : (s.rejectFrame).arg3 = s.arg3 := rfl
@[simp] theorem State.rejectFrame_crcAcc (s : State) : (s.rejectFrame).crcAcc = s.crcAcc := rfl
@[simp] theorem State.rejectFrame_encSt (s : State) : (s.rejectFrame).encSt = s.encSt := rfl
@[simp] theorem State.rejectFrame_encBlk (s : State) : (s.rejectFrame).encBlk = s.encBlk := rfl
@[simp] theorem State.rejectFrame_encZero (s : State) : (s.rejectFrame).encZero = s.encZero := rfl
@[simp] theorem State.rejectFrame_encPtr (s : State) : (s.rejectFrame).encPtr = s.encPtr := rfl
@[simp] theorem State.rejectFrame_encRem (s : State) : (s.rejectFrame).encRem = s.encRem := rfl
@[simp] theorem State.rejectFrame_encOut (s : State) : (s.rejectFrame).encOut = s.encOut := rfl
@[simp] theorem State.rejectFrame_decSt (s : State) : (s.rejectFrame).decSt = s.decSt := rfl
@[simp] theorem State.rejectFrame_decCnt (s : State) : (s.rejectFrame).decCnt = s.decCnt := rfl
@[simp] theorem State.rejectFrame_decOvf (s : State) : (s.rejectFrame).decOvf = s.decOvf := rfl
@[simp] theorem State.rejectFrame_decBase (s : State) : (s.rejectFrame).decBase = s.decBase := rfl
@[simp] theorem State.rejectFrame_decCap (s : State) : (s.rejectFrame).decCap = s.decCap := rfl
@[simp] theorem State.rejectFrame_decLen (s : State) : (s.rejectFrame).decLen = s.decLen := rfl
@[simp] theorem State.rejectFrame_frmLen (s : State) : (s.rejectFrame).frmLen = s.frmLen := rfl
@[simp] theorem State.rejectFrame_frmCrc (s : State) : (s.rejectFrame).frmCrc = s.frmCrc := rfl
@[simp] theorem State.rejectFrame_frmResp (s : State) : (s.rejectFrame).frmResp = 0 := rfl
@[simp] theorem State.rejectFrame_frmWval (s : State) : (s.rejectFrame).frmWval = s.frmWval := rfl
@[simp] theorem State.rejectFrame_frmSval (s : State) : (s.rejectFrame).frmSval = s.frmSval := rfl
@[simp] theorem State.rejectFrame_ram (s : State) : (s.rejectFrame).ram = s.ram := rfl
@[simp] theorem State.rejectFrame_host (s : State) : (s.rejectFrame).host = s.host := rfl
@[simp] theorem State.rejectFrame_resp (s : State) : (s.rejectFrame).resp = s.resp := rfl

/-! ### A checked frame's results (R182) -/

@[simp] theorem State.measureFrame_params (s : State) (n : Nat) (d : List Byte) :
    (s.measureFrame n d).params = s.params := rfl
@[simp] theorem State.measureFrame_code (s : State) (n : Nat) (d : List Byte) :
    (s.measureFrame n d).code = s.code := rfl
@[simp] theorem State.measureFrame_err (s : State) (n : Nat) (d : List Byte) :
    (s.measureFrame n d).err = s.err := rfl
@[simp] theorem State.measureFrame_frmValid (s : State) (n : Nat) (d : List Byte) :
    (s.measureFrame n d).frmValid = s.frmValid := rfl
@[simp] theorem State.measureFrame_cfgWidth (s : State) (n : Nat) (d : List Byte) :
    (s.measureFrame n d).cfgWidth = s.cfgWidth := rfl
@[simp] theorem State.measureFrame_cfgChannels (s : State) (n : Nat) (d : List Byte) :
    (s.measureFrame n d).cfgChannels = s.cfgChannels := rfl
@[simp] theorem State.measureFrame_arg0 (s : State) (n : Nat) (d : List Byte) :
    (s.measureFrame n d).arg0 = s.arg0 := rfl
@[simp] theorem State.measureFrame_arg1 (s : State) (n : Nat) (d : List Byte) :
    (s.measureFrame n d).arg1 = s.arg1 := rfl
@[simp] theorem State.measureFrame_arg2 (s : State) (n : Nat) (d : List Byte) :
    (s.measureFrame n d).arg2 = s.arg2 := rfl
@[simp] theorem State.measureFrame_arg3 (s : State) (n : Nat) (d : List Byte) :
    (s.measureFrame n d).arg3 = s.arg3 := rfl
@[simp] theorem State.measureFrame_crcAcc (s : State) (n : Nat) (d : List Byte) :
    (s.measureFrame n d).crcAcc = s.crcAcc := rfl
@[simp] theorem State.measureFrame_encSt (s : State) (n : Nat) (d : List Byte) :
    (s.measureFrame n d).encSt = s.encSt := rfl
@[simp] theorem State.measureFrame_encBlk (s : State) (n : Nat) (d : List Byte) :
    (s.measureFrame n d).encBlk = s.encBlk := rfl
@[simp] theorem State.measureFrame_encZero (s : State) (n : Nat) (d : List Byte) :
    (s.measureFrame n d).encZero = s.encZero := rfl
@[simp] theorem State.measureFrame_encPtr (s : State) (n : Nat) (d : List Byte) :
    (s.measureFrame n d).encPtr = s.encPtr := rfl
@[simp] theorem State.measureFrame_encRem (s : State) (n : Nat) (d : List Byte) :
    (s.measureFrame n d).encRem = s.encRem := rfl
@[simp] theorem State.measureFrame_encOut (s : State) (n : Nat) (d : List Byte) :
    (s.measureFrame n d).encOut = s.encOut := rfl
@[simp] theorem State.measureFrame_decSt (s : State) (n : Nat) (d : List Byte) :
    (s.measureFrame n d).decSt = s.decSt := rfl
@[simp] theorem State.measureFrame_decCnt (s : State) (n : Nat) (d : List Byte) :
    (s.measureFrame n d).decCnt = s.decCnt := rfl
@[simp] theorem State.measureFrame_decOvf (s : State) (n : Nat) (d : List Byte) :
    (s.measureFrame n d).decOvf = s.decOvf := rfl
@[simp] theorem State.measureFrame_decBase (s : State) (n : Nat) (d : List Byte) :
    (s.measureFrame n d).decBase = s.decBase := rfl
@[simp] theorem State.measureFrame_decCap (s : State) (n : Nat) (d : List Byte) :
    (s.measureFrame n d).decCap = s.decCap := rfl
@[simp] theorem State.measureFrame_decLen (s : State) (n : Nat) (d : List Byte) :
    (s.measureFrame n d).decLen = s.decLen := rfl
@[simp] theorem State.measureFrame_frmLen (s : State) (n : Nat) (d : List Byte) :
    (s.measureFrame n d).frmLen = BitVec.ofNat 32 n := rfl
@[simp] theorem State.measureFrame_frmCrc (s : State) (n : Nat) (d : List Byte) :
    (s.measureFrame n d).frmCrc = crc16 d := rfl
@[simp] theorem State.measureFrame_frmResp (s : State) (n : Nat) (d : List Byte) :
    (s.measureFrame n d).frmResp = s.frmResp := rfl
@[simp] theorem State.measureFrame_frmWval (s : State) (n : Nat) (d : List Byte) :
    (s.measureFrame n d).frmWval = s.frmWval := rfl
@[simp] theorem State.measureFrame_frmSval (s : State) (n : Nat) (d : List Byte) :
    (s.measureFrame n d).frmSval = s.frmSval := rfl
@[simp] theorem State.measureFrame_ram (s : State) (n : Nat) (d : List Byte) :
    (s.measureFrame n d).ram = s.ram := rfl
@[simp] theorem State.measureFrame_host (s : State) (n : Nat) (d : List Byte) :
    (s.measureFrame n d).host = s.host := rfl
@[simp] theorem State.measureFrame_resp (s : State) (n : Nat) (d : List Byte) :
    (s.measureFrame n d).resp = s.resp := rfl

/-! ### A passing verify (R182) -/

@[simp] theorem State.acceptFrame_params (s : State) (d : List Byte) :
    (s.acceptFrame d).params = s.params := rfl
@[simp] theorem State.acceptFrame_code (s : State) (d : List Byte) :
    (s.acceptFrame d).code = s.code := rfl
@[simp] theorem State.acceptFrame_err (s : State) (d : List Byte) :
    (s.acceptFrame d).err = s.err := rfl
@[simp] theorem State.acceptFrame_frmValid (s : State) (d : List Byte) :
    (s.acceptFrame d).frmValid = true := rfl
@[simp] theorem State.acceptFrame_cfgWidth (s : State) (d : List Byte) :
    (s.acceptFrame d).cfgWidth = s.cfgWidth := rfl
@[simp] theorem State.acceptFrame_cfgChannels (s : State) (d : List Byte) :
    (s.acceptFrame d).cfgChannels = s.cfgChannels := rfl
@[simp] theorem State.acceptFrame_arg0 (s : State) (d : List Byte) :
    (s.acceptFrame d).arg0 = s.arg0 := rfl
@[simp] theorem State.acceptFrame_arg1 (s : State) (d : List Byte) :
    (s.acceptFrame d).arg1 = s.arg1 := rfl
@[simp] theorem State.acceptFrame_arg2 (s : State) (d : List Byte) :
    (s.acceptFrame d).arg2 = s.arg2 := rfl
@[simp] theorem State.acceptFrame_arg3 (s : State) (d : List Byte) :
    (s.acceptFrame d).arg3 = s.arg3 := rfl
@[simp] theorem State.acceptFrame_crcAcc (s : State) (d : List Byte) :
    (s.acceptFrame d).crcAcc = s.crcAcc := rfl
@[simp] theorem State.acceptFrame_encSt (s : State) (d : List Byte) :
    (s.acceptFrame d).encSt = s.encSt := rfl
@[simp] theorem State.acceptFrame_encBlk (s : State) (d : List Byte) :
    (s.acceptFrame d).encBlk = s.encBlk := rfl
@[simp] theorem State.acceptFrame_encZero (s : State) (d : List Byte) :
    (s.acceptFrame d).encZero = s.encZero := rfl
@[simp] theorem State.acceptFrame_encPtr (s : State) (d : List Byte) :
    (s.acceptFrame d).encPtr = s.encPtr := rfl
@[simp] theorem State.acceptFrame_encRem (s : State) (d : List Byte) :
    (s.acceptFrame d).encRem = s.encRem := rfl
@[simp] theorem State.acceptFrame_encOut (s : State) (d : List Byte) :
    (s.acceptFrame d).encOut = s.encOut := rfl
@[simp] theorem State.acceptFrame_decSt (s : State) (d : List Byte) :
    (s.acceptFrame d).decSt = s.decSt := rfl
@[simp] theorem State.acceptFrame_decCnt (s : State) (d : List Byte) :
    (s.acceptFrame d).decCnt = s.decCnt := rfl
@[simp] theorem State.acceptFrame_decOvf (s : State) (d : List Byte) :
    (s.acceptFrame d).decOvf = s.decOvf := rfl
@[simp] theorem State.acceptFrame_decBase (s : State) (d : List Byte) :
    (s.acceptFrame d).decBase = s.decBase := rfl
@[simp] theorem State.acceptFrame_decCap (s : State) (d : List Byte) :
    (s.acceptFrame d).decCap = s.decCap := rfl
@[simp] theorem State.acceptFrame_decLen (s : State) (d : List Byte) :
    (s.acceptFrame d).decLen = s.decLen := rfl
@[simp] theorem State.acceptFrame_frmLen (s : State) (d : List Byte) :
    (s.acceptFrame d).frmLen = s.frmLen := rfl
@[simp] theorem State.acceptFrame_frmCrc (s : State) (d : List Byte) :
    (s.acceptFrame d).frmCrc = s.frmCrc := rfl
@[simp] theorem State.acceptFrame_frmResp (s : State) (d : List Byte) :
    (s.acceptFrame d).frmResp = word16 d := rfl
@[simp] theorem State.acceptFrame_frmWval (s : State) (d : List Byte) :
    (s.acceptFrame d).frmWval = s.frmWval := rfl
@[simp] theorem State.acceptFrame_frmSval (s : State) (d : List Byte) :
    (s.acceptFrame d).frmSval = s.frmSval := rfl
@[simp] theorem State.acceptFrame_ram (s : State) (d : List Byte) :
    (s.acceptFrame d).ram = s.ram := rfl
@[simp] theorem State.acceptFrame_host (s : State) (d : List Byte) :
    (s.acceptFrame d).host = s.host := rfl
@[simp] theorem State.acceptFrame_resp (s : State) (d : List Byte) :
    (s.acceptFrame d).resp = s.resp := rfl

/-! ### Entering a block (R140): what it keeps -/

@[simp] theorem State.enterBlock_params (s : State) (b : Byte) :
    (s.enterBlock b).params = s.params := by unfold State.enterBlock; split <;> rfl
@[simp] theorem State.enterBlock_code (s : State) (b : Byte) :
    (s.enterBlock b).code = s.code := by unfold State.enterBlock; split <;> rfl
@[simp] theorem State.enterBlock_err (s : State) (b : Byte) :
    (s.enterBlock b).err = s.err := by unfold State.enterBlock; split <;> rfl
@[simp] theorem State.enterBlock_frmValid (s : State) (b : Byte) :
    (s.enterBlock b).frmValid = s.frmValid := by unfold State.enterBlock; split <;> rfl
@[simp] theorem State.enterBlock_cfgWidth (s : State) (b : Byte) :
    (s.enterBlock b).cfgWidth = s.cfgWidth := by unfold State.enterBlock; split <;> rfl
@[simp] theorem State.enterBlock_cfgChannels (s : State) (b : Byte) :
    (s.enterBlock b).cfgChannels = s.cfgChannels := by unfold State.enterBlock; split <;> rfl
@[simp] theorem State.enterBlock_arg0 (s : State) (b : Byte) :
    (s.enterBlock b).arg0 = s.arg0 := by unfold State.enterBlock; split <;> rfl
@[simp] theorem State.enterBlock_arg1 (s : State) (b : Byte) :
    (s.enterBlock b).arg1 = s.arg1 := by unfold State.enterBlock; split <;> rfl
@[simp] theorem State.enterBlock_arg2 (s : State) (b : Byte) :
    (s.enterBlock b).arg2 = s.arg2 := by unfold State.enterBlock; split <;> rfl
@[simp] theorem State.enterBlock_arg3 (s : State) (b : Byte) :
    (s.enterBlock b).arg3 = s.arg3 := by unfold State.enterBlock; split <;> rfl
@[simp] theorem State.enterBlock_crcAcc (s : State) (b : Byte) :
    (s.enterBlock b).crcAcc = s.crcAcc := by unfold State.enterBlock; split <;> rfl
@[simp] theorem State.enterBlock_encSt (s : State) (b : Byte) :
    (s.enterBlock b).encSt = s.encSt := by unfold State.enterBlock; split <;> rfl
@[simp] theorem State.enterBlock_encBlk (s : State) (b : Byte) :
    (s.enterBlock b).encBlk = s.encBlk := by unfold State.enterBlock; split <;> rfl
@[simp] theorem State.enterBlock_encZero (s : State) (b : Byte) :
    (s.enterBlock b).encZero = s.encZero := by unfold State.enterBlock; split <;> rfl
@[simp] theorem State.enterBlock_encPtr (s : State) (b : Byte) :
    (s.enterBlock b).encPtr = s.encPtr := by unfold State.enterBlock; split <;> rfl
@[simp] theorem State.enterBlock_encRem (s : State) (b : Byte) :
    (s.enterBlock b).encRem = s.encRem := by unfold State.enterBlock; split <;> rfl
@[simp] theorem State.enterBlock_encOut (s : State) (b : Byte) :
    (s.enterBlock b).encOut = s.encOut := by unfold State.enterBlock; split <;> rfl
@[simp] theorem State.enterBlock_decOvf (s : State) (b : Byte) :
    (s.enterBlock b).decOvf = s.decOvf := by unfold State.enterBlock; split <;> rfl
@[simp] theorem State.enterBlock_decBase (s : State) (b : Byte) :
    (s.enterBlock b).decBase = s.decBase := by unfold State.enterBlock; split <;> rfl
@[simp] theorem State.enterBlock_decCap (s : State) (b : Byte) :
    (s.enterBlock b).decCap = s.decCap := by unfold State.enterBlock; split <;> rfl
@[simp] theorem State.enterBlock_decLen (s : State) (b : Byte) :
    (s.enterBlock b).decLen = s.decLen := by unfold State.enterBlock; split <;> rfl
@[simp] theorem State.enterBlock_frmLen (s : State) (b : Byte) :
    (s.enterBlock b).frmLen = s.frmLen := by unfold State.enterBlock; split <;> rfl
@[simp] theorem State.enterBlock_frmCrc (s : State) (b : Byte) :
    (s.enterBlock b).frmCrc = s.frmCrc := by unfold State.enterBlock; split <;> rfl
@[simp] theorem State.enterBlock_frmResp (s : State) (b : Byte) :
    (s.enterBlock b).frmResp = s.frmResp := by unfold State.enterBlock; split <;> rfl
@[simp] theorem State.enterBlock_frmWval (s : State) (b : Byte) :
    (s.enterBlock b).frmWval = s.frmWval := by unfold State.enterBlock; split <;> rfl
@[simp] theorem State.enterBlock_frmSval (s : State) (b : Byte) :
    (s.enterBlock b).frmSval = s.frmSval := by unfold State.enterBlock; split <;> rfl
@[simp] theorem State.enterBlock_ram (s : State) (b : Byte) :
    (s.enterBlock b).ram = s.ram := by unfold State.enterBlock; split <;> rfl
@[simp] theorem State.enterBlock_host (s : State) (b : Byte) :
    (s.enterBlock b).host = s.host := by unfold State.enterBlock; split <;> rfl
@[simp] theorem State.enterBlock_resp (s : State) (b : Byte) :
    (s.enterBlock b).resp = s.resp := by unfold State.enterBlock; split <;> rfl

/-! ### after_block (R125): what it keeps -/

@[simp] theorem State.afterBlock_params (s : State) :
    (s.afterBlock).params = s.params := by unfold State.afterBlock; repeat' (first | rfl | split)
@[simp] theorem State.afterBlock_code (s : State) :
    (s.afterBlock).code = s.code := by unfold State.afterBlock; repeat' (first | rfl | split)
@[simp] theorem State.afterBlock_err (s : State) :
    (s.afterBlock).err = s.err := by unfold State.afterBlock; repeat' (first | rfl | split)
@[simp] theorem State.afterBlock_frmValid (s : State) :
    (s.afterBlock).frmValid = s.frmValid := by unfold State.afterBlock; repeat' (first | rfl | split)
@[simp] theorem State.afterBlock_cfgWidth (s : State) :
    (s.afterBlock).cfgWidth = s.cfgWidth := by unfold State.afterBlock; repeat' (first | rfl | split)
@[simp] theorem State.afterBlock_cfgChannels (s : State) :
    (s.afterBlock).cfgChannels = s.cfgChannels := by unfold State.afterBlock; repeat' (first | rfl | split)
@[simp] theorem State.afterBlock_arg0 (s : State) :
    (s.afterBlock).arg0 = s.arg0 := by unfold State.afterBlock; repeat' (first | rfl | split)
@[simp] theorem State.afterBlock_arg1 (s : State) :
    (s.afterBlock).arg1 = s.arg1 := by unfold State.afterBlock; repeat' (first | rfl | split)
@[simp] theorem State.afterBlock_arg2 (s : State) :
    (s.afterBlock).arg2 = s.arg2 := by unfold State.afterBlock; repeat' (first | rfl | split)
@[simp] theorem State.afterBlock_arg3 (s : State) :
    (s.afterBlock).arg3 = s.arg3 := by unfold State.afterBlock; repeat' (first | rfl | split)
@[simp] theorem State.afterBlock_crcAcc (s : State) :
    (s.afterBlock).crcAcc = s.crcAcc := by unfold State.afterBlock; repeat' (first | rfl | split)
@[simp] theorem State.afterBlock_encOut (s : State) :
    (s.afterBlock).encOut = s.encOut := by unfold State.afterBlock; repeat' (first | rfl | split)
@[simp] theorem State.afterBlock_decSt (s : State) :
    (s.afterBlock).decSt = s.decSt := by unfold State.afterBlock; repeat' (first | rfl | split)
@[simp] theorem State.afterBlock_decCnt (s : State) :
    (s.afterBlock).decCnt = s.decCnt := by unfold State.afterBlock; repeat' (first | rfl | split)
@[simp] theorem State.afterBlock_decOvf (s : State) :
    (s.afterBlock).decOvf = s.decOvf := by unfold State.afterBlock; repeat' (first | rfl | split)
@[simp] theorem State.afterBlock_decBase (s : State) :
    (s.afterBlock).decBase = s.decBase := by unfold State.afterBlock; repeat' (first | rfl | split)
@[simp] theorem State.afterBlock_decCap (s : State) :
    (s.afterBlock).decCap = s.decCap := by unfold State.afterBlock; repeat' (first | rfl | split)
@[simp] theorem State.afterBlock_decLen (s : State) :
    (s.afterBlock).decLen = s.decLen := by unfold State.afterBlock; repeat' (first | rfl | split)
@[simp] theorem State.afterBlock_frmLen (s : State) :
    (s.afterBlock).frmLen = s.frmLen := by unfold State.afterBlock; repeat' (first | rfl | split)
@[simp] theorem State.afterBlock_frmCrc (s : State) :
    (s.afterBlock).frmCrc = s.frmCrc := by unfold State.afterBlock; repeat' (first | rfl | split)
@[simp] theorem State.afterBlock_frmResp (s : State) :
    (s.afterBlock).frmResp = s.frmResp := by unfold State.afterBlock; repeat' (first | rfl | split)
@[simp] theorem State.afterBlock_frmWval (s : State) :
    (s.afterBlock).frmWval = s.frmWval := by unfold State.afterBlock; repeat' (first | rfl | split)
@[simp] theorem State.afterBlock_frmSval (s : State) :
    (s.afterBlock).frmSval = s.frmSval := by unfold State.afterBlock; repeat' (first | rfl | split)
@[simp] theorem State.afterBlock_ram (s : State) :
    (s.afterBlock).ram = s.ram := by unfold State.afterBlock; repeat' (first | rfl | split)
@[simp] theorem State.afterBlock_host (s : State) :
    (s.afterBlock).host = s.host := by unfold State.afterBlock; repeat' (first | rfl | split)
@[simp] theorem State.afterBlock_resp (s : State) :
    (s.afterBlock).resp = s.resp := by unfold State.afterBlock; repeat' (first | rfl | split)

/-! ### The end of a block (R124): what it keeps -/

@[simp] theorem State.endBlock_params (s : State) :
    (s.endBlock).params = s.params := by unfold State.endBlock; split <;> simp
@[simp] theorem State.endBlock_code (s : State) :
    (s.endBlock).code = s.code := by unfold State.endBlock; split <;> simp
@[simp] theorem State.endBlock_err (s : State) :
    (s.endBlock).err = s.err := by unfold State.endBlock; split <;> simp
@[simp] theorem State.endBlock_frmValid (s : State) :
    (s.endBlock).frmValid = s.frmValid := by unfold State.endBlock; split <;> simp
@[simp] theorem State.endBlock_cfgWidth (s : State) :
    (s.endBlock).cfgWidth = s.cfgWidth := by unfold State.endBlock; split <;> simp
@[simp] theorem State.endBlock_cfgChannels (s : State) :
    (s.endBlock).cfgChannels = s.cfgChannels := by unfold State.endBlock; split <;> simp
@[simp] theorem State.endBlock_arg0 (s : State) :
    (s.endBlock).arg0 = s.arg0 := by unfold State.endBlock; split <;> simp
@[simp] theorem State.endBlock_arg1 (s : State) :
    (s.endBlock).arg1 = s.arg1 := by unfold State.endBlock; split <;> simp
@[simp] theorem State.endBlock_arg2 (s : State) :
    (s.endBlock).arg2 = s.arg2 := by unfold State.endBlock; split <;> simp
@[simp] theorem State.endBlock_arg3 (s : State) :
    (s.endBlock).arg3 = s.arg3 := by unfold State.endBlock; split <;> simp
@[simp] theorem State.endBlock_crcAcc (s : State) :
    (s.endBlock).crcAcc = s.crcAcc := by unfold State.endBlock; split <;> simp
@[simp] theorem State.endBlock_encOut (s : State) :
    (s.endBlock).encOut = s.encOut := by unfold State.endBlock; split <;> simp
@[simp] theorem State.endBlock_decSt (s : State) :
    (s.endBlock).decSt = s.decSt := by unfold State.endBlock; split <;> simp
@[simp] theorem State.endBlock_decCnt (s : State) :
    (s.endBlock).decCnt = s.decCnt := by unfold State.endBlock; split <;> simp
@[simp] theorem State.endBlock_decOvf (s : State) :
    (s.endBlock).decOvf = s.decOvf := by unfold State.endBlock; split <;> simp
@[simp] theorem State.endBlock_decBase (s : State) :
    (s.endBlock).decBase = s.decBase := by unfold State.endBlock; split <;> simp
@[simp] theorem State.endBlock_decCap (s : State) :
    (s.endBlock).decCap = s.decCap := by unfold State.endBlock; split <;> simp
@[simp] theorem State.endBlock_decLen (s : State) :
    (s.endBlock).decLen = s.decLen := by unfold State.endBlock; split <;> simp
@[simp] theorem State.endBlock_frmLen (s : State) :
    (s.endBlock).frmLen = s.frmLen := by unfold State.endBlock; split <;> simp
@[simp] theorem State.endBlock_frmCrc (s : State) :
    (s.endBlock).frmCrc = s.frmCrc := by unfold State.endBlock; split <;> simp
@[simp] theorem State.endBlock_frmResp (s : State) :
    (s.endBlock).frmResp = s.frmResp := by unfold State.endBlock; split <;> simp
@[simp] theorem State.endBlock_frmWval (s : State) :
    (s.endBlock).frmWval = s.frmWval := by unfold State.endBlock; split <;> simp
@[simp] theorem State.endBlock_frmSval (s : State) :
    (s.endBlock).frmSval = s.frmSval := by unfold State.endBlock; split <;> simp
@[simp] theorem State.endBlock_ram (s : State) :
    (s.endBlock).ram = s.ram := by unfold State.endBlock; split <;> simp
@[simp] theorem State.endBlock_host (s : State) :
    (s.endBlock).host = s.host := by unfold State.endBlock; split <;> simp
@[simp] theorem State.endBlock_resp (s : State) :
    (s.endBlock).resp = s.resp := by unfold State.endBlock; split <;> simp

/-! ### The CODE case of a pull (R124): what it keeps -/

@[simp] theorem State.pullCode_params (s : State) (l : Nat) (z : Bool) :
    (s.pullCode l z).params = s.params := by unfold State.pullCode; split <;> simp
@[simp] theorem State.pullCode_code (s : State) (l : Nat) (z : Bool) :
    (s.pullCode l z).code = s.code := by unfold State.pullCode; split <;> simp
@[simp] theorem State.pullCode_err (s : State) (l : Nat) (z : Bool) :
    (s.pullCode l z).err = s.err := by unfold State.pullCode; split <;> simp
@[simp] theorem State.pullCode_frmValid (s : State) (l : Nat) (z : Bool) :
    (s.pullCode l z).frmValid = s.frmValid := by unfold State.pullCode; split <;> simp
@[simp] theorem State.pullCode_cfgWidth (s : State) (l : Nat) (z : Bool) :
    (s.pullCode l z).cfgWidth = s.cfgWidth := by unfold State.pullCode; split <;> simp
@[simp] theorem State.pullCode_cfgChannels (s : State) (l : Nat) (z : Bool) :
    (s.pullCode l z).cfgChannels = s.cfgChannels := by unfold State.pullCode; split <;> simp
@[simp] theorem State.pullCode_arg0 (s : State) (l : Nat) (z : Bool) :
    (s.pullCode l z).arg0 = s.arg0 := by unfold State.pullCode; split <;> simp
@[simp] theorem State.pullCode_arg1 (s : State) (l : Nat) (z : Bool) :
    (s.pullCode l z).arg1 = s.arg1 := by unfold State.pullCode; split <;> simp
@[simp] theorem State.pullCode_arg2 (s : State) (l : Nat) (z : Bool) :
    (s.pullCode l z).arg2 = s.arg2 := by unfold State.pullCode; split <;> simp
@[simp] theorem State.pullCode_arg3 (s : State) (l : Nat) (z : Bool) :
    (s.pullCode l z).arg3 = s.arg3 := by unfold State.pullCode; split <;> simp
@[simp] theorem State.pullCode_crcAcc (s : State) (l : Nat) (z : Bool) :
    (s.pullCode l z).crcAcc = s.crcAcc := by unfold State.pullCode; split <;> simp
@[simp] theorem State.pullCode_decSt (s : State) (l : Nat) (z : Bool) :
    (s.pullCode l z).decSt = s.decSt := by unfold State.pullCode; split <;> simp
@[simp] theorem State.pullCode_decCnt (s : State) (l : Nat) (z : Bool) :
    (s.pullCode l z).decCnt = s.decCnt := by unfold State.pullCode; split <;> simp
@[simp] theorem State.pullCode_decOvf (s : State) (l : Nat) (z : Bool) :
    (s.pullCode l z).decOvf = s.decOvf := by unfold State.pullCode; split <;> simp
@[simp] theorem State.pullCode_decBase (s : State) (l : Nat) (z : Bool) :
    (s.pullCode l z).decBase = s.decBase := by unfold State.pullCode; split <;> simp
@[simp] theorem State.pullCode_decCap (s : State) (l : Nat) (z : Bool) :
    (s.pullCode l z).decCap = s.decCap := by unfold State.pullCode; split <;> simp
@[simp] theorem State.pullCode_decLen (s : State) (l : Nat) (z : Bool) :
    (s.pullCode l z).decLen = s.decLen := by unfold State.pullCode; split <;> simp
@[simp] theorem State.pullCode_frmLen (s : State) (l : Nat) (z : Bool) :
    (s.pullCode l z).frmLen = s.frmLen := by unfold State.pullCode; split <;> simp
@[simp] theorem State.pullCode_frmCrc (s : State) (l : Nat) (z : Bool) :
    (s.pullCode l z).frmCrc = s.frmCrc := by unfold State.pullCode; split <;> simp
@[simp] theorem State.pullCode_frmResp (s : State) (l : Nat) (z : Bool) :
    (s.pullCode l z).frmResp = s.frmResp := by unfold State.pullCode; split <;> simp
@[simp] theorem State.pullCode_frmWval (s : State) (l : Nat) (z : Bool) :
    (s.pullCode l z).frmWval = s.frmWval := by unfold State.pullCode; split <;> simp
@[simp] theorem State.pullCode_frmSval (s : State) (l : Nat) (z : Bool) :
    (s.pullCode l z).frmSval = s.frmSval := by unfold State.pullCode; split <;> simp
@[simp] theorem State.pullCode_ram (s : State) (l : Nat) (z : Bool) :
    (s.pullCode l z).ram = s.ram := by unfold State.pullCode; split <;> simp
@[simp] theorem State.pullCode_host (s : State) (l : Nat) (z : Bool) :
    (s.pullCode l z).host = s.host := by unfold State.pullCode; split <;> simp
@[simp] theorem State.pullCode_resp (s : State) (l : Nat) (z : Bool) :
    (s.pullCode l z).resp = s.resp := by unfold State.pullCode; split <;> simp

/-! ### The DATA case of a pull (R124): what it keeps -/

@[simp] theorem State.pullData_params (s : State) (b : Byte) :
    (s.pullData b).params = s.params := by simp [State.pullData]
@[simp] theorem State.pullData_code (s : State) (b : Byte) :
    (s.pullData b).code = s.code := by simp [State.pullData]
@[simp] theorem State.pullData_err (s : State) (b : Byte) :
    (s.pullData b).err = s.err := by simp [State.pullData]
@[simp] theorem State.pullData_frmValid (s : State) (b : Byte) :
    (s.pullData b).frmValid = s.frmValid := by simp [State.pullData]
@[simp] theorem State.pullData_cfgWidth (s : State) (b : Byte) :
    (s.pullData b).cfgWidth = s.cfgWidth := by simp [State.pullData]
@[simp] theorem State.pullData_cfgChannels (s : State) (b : Byte) :
    (s.pullData b).cfgChannels = s.cfgChannels := by simp [State.pullData]
@[simp] theorem State.pullData_arg0 (s : State) (b : Byte) :
    (s.pullData b).arg0 = s.arg0 := by simp [State.pullData]
@[simp] theorem State.pullData_arg1 (s : State) (b : Byte) :
    (s.pullData b).arg1 = s.arg1 := by simp [State.pullData]
@[simp] theorem State.pullData_arg2 (s : State) (b : Byte) :
    (s.pullData b).arg2 = s.arg2 := by simp [State.pullData]
@[simp] theorem State.pullData_arg3 (s : State) (b : Byte) :
    (s.pullData b).arg3 = s.arg3 := by simp [State.pullData]
@[simp] theorem State.pullData_crcAcc (s : State) (b : Byte) :
    (s.pullData b).crcAcc = s.crcAcc := by simp [State.pullData]
@[simp] theorem State.pullData_decSt (s : State) (b : Byte) :
    (s.pullData b).decSt = s.decSt := by simp [State.pullData]
@[simp] theorem State.pullData_decCnt (s : State) (b : Byte) :
    (s.pullData b).decCnt = s.decCnt := by simp [State.pullData]
@[simp] theorem State.pullData_decOvf (s : State) (b : Byte) :
    (s.pullData b).decOvf = s.decOvf := by simp [State.pullData]
@[simp] theorem State.pullData_decBase (s : State) (b : Byte) :
    (s.pullData b).decBase = s.decBase := by simp [State.pullData]
@[simp] theorem State.pullData_decCap (s : State) (b : Byte) :
    (s.pullData b).decCap = s.decCap := by simp [State.pullData]
@[simp] theorem State.pullData_decLen (s : State) (b : Byte) :
    (s.pullData b).decLen = s.decLen := by simp [State.pullData]
@[simp] theorem State.pullData_frmLen (s : State) (b : Byte) :
    (s.pullData b).frmLen = s.frmLen := by simp [State.pullData]
@[simp] theorem State.pullData_frmCrc (s : State) (b : Byte) :
    (s.pullData b).frmCrc = s.frmCrc := by simp [State.pullData]
@[simp] theorem State.pullData_frmResp (s : State) (b : Byte) :
    (s.pullData b).frmResp = s.frmResp := by simp [State.pullData]
@[simp] theorem State.pullData_frmWval (s : State) (b : Byte) :
    (s.pullData b).frmWval = s.frmWval := by simp [State.pullData]
@[simp] theorem State.pullData_frmSval (s : State) (b : Byte) :
    (s.pullData b).frmSval = s.frmSval := by simp [State.pullData]
@[simp] theorem State.pullData_ram (s : State) (b : Byte) :
    (s.pullData b).ram = s.ram := by simp [State.pullData]
@[simp] theorem State.pullData_host (s : State) (b : Byte) :
    (s.pullData b).host = s.host := by simp [State.pullData]
@[simp] theorem State.pullData_resp (s : State) (b : Byte) :
    (s.pullData b).resp = s.resp := by simp [State.pullData]

end Sys2Proof.Machine
end

