-- ==== Sys2Proof/Laws/Ops.lean ====
section
/-! SUPPORT. What each shared operation can do, said once: the RAM primitives, the code scan, emit,
the frame build and verify bodies, and the host port. Later proofs cite these and do not unfold the
operations. -/

namespace Sys2Proof.Machine

/-! ### Outcomes -/

/-- A command that goes on after a fallible read or write did read or write. -/
theorem orFault_eq_next {α : Type} {x : Except Fault α} {k : α → Result} {t : State}
    (h : orFault x k = .next t) : ∃ v, x = .ok v ∧ k v = .next t := by
  cases x with
  | error f => cases h
  | ok v => exact ⟨v, rfl, h⟩

@[simp] theorem orFault_ok {α : Type} (v : α) (k : α → Result) : orFault (.ok v) k = k v := rfl

@[simp] theorem finish_eq_next {s t : State} {c : Code} :
    s.finish c = .next t ↔ s.complete c = t := by simp [State.finish]

@[simp] theorem raise_eq_next {s t : State} {c : Code} :
    s.raise c = .next t ↔ s.complete c = t := by simp [State.raise]

theorem inRam_iff (s : State) (a n : Nat) : s.inRam a n = true ↔ a + n ≤ s.params.ramSize := by
  simp [State.inRam]

/-! ### The RAM primitives (R13) -/

theorem memRead_eq_ok {s : State} {a : Nat} {v : Byte} (h : s.memRead a = .ok v) :
    a < s.params.ramSize ∧ v = s.ramByte a := by
  unfold State.memRead at h
  split at h
  · cases h; exact ⟨‹_›, rfl⟩
  · cases h

theorem memRead_ok {s : State} {a : Nat} (h : a < s.params.ramSize) :
    s.memRead a = .ok (s.ramByte a) := by simp [State.memRead, State.ramByte, h]

theorem memWrite_eq_ok {s t : State} {a : Nat} {v : Byte} (h : s.memWrite a v = .ok t) :
    a < s.params.ramSize ∧ t = { s with ram := s.ram.write a v } := by
  unfold State.memWrite at h
  split at h
  · cases h; exact ⟨‹_›, rfl⟩
  · cases h

theorem memWrite_ok {s : State} {a : Nat} (v : Byte) (h : a < s.params.ramSize) :
    s.memWrite a v = .ok { s with ram := s.ram.write a v } := by simp [State.memWrite, h]

/-- A range that passed its check reads as its bytes. -/
theorem memReadSpan_ok {s : State} {a n : Nat} (h : a + n ≤ s.params.ramSize) :
    s.memReadSpan a n = .ok (s.ram.bytes a n) := by
  induction n generalizing a with
  | zero => rfl
  | succ n ih =>
    simp [State.memReadSpan, memRead_ok (s := s) (a := a) (by omega), ih (a := a + 1) (by omega),
      Memory.bytes, State.ramByte]

/-- A range that passed its check takes the bytes, and nothing else changes. -/
theorem memWriteSpan_ok {s : State} {a : Nat} {vs : List Byte}
    (h : a + vs.length ≤ s.params.ramSize) :
    s.memWriteSpan a vs = .ok { s with ram := s.ram.writeBytes a vs } := by
  induction vs generalizing s a with
  | nil => rfl
  | cons v vs ih =>
    simp only [List.length_cons] at h
    rw [State.memWriteSpan, memWrite_ok v (by omega)]
    exact ih (s := { s with ram := s.ram.write a v }) (a := a + 1) (by simpa using by omega)

/-! ### The frame width (R170) -/

theorem frameWidth_eq_some {s : State} {w : Nat} (h : s.frameWidth = some w) :
    w = s.cfgWidth.toNat ∧ (w = 2 ∨ w = 3 ∨ w = 4) := by
  unfold State.frameWidth at h
  split at h
  · rename_i hw
    cases h
    refine ⟨rfl, ?_⟩
    rcases hw with hw | hw | hw <;> simp [hw]
  · cases h

theorem frameWidth_eq_none {s : State} :
    s.frameWidth = none ↔ ¬(s.cfgWidth = 2 ∨ s.cfgWidth = 3 ∨ s.cfgWidth = 4) := by
  unfold State.frameWidth
  split <;> simp_all

@[simp] theorem length_wordBytes (w : Nat) (v : Half) : (wordBytes w v).length = w - 2 + 2 := by
  simp [wordBytes]

/-! ### The encoder (R124, R125) -/

/-- The code scan finds the first 0x00 of its range, or none. -/
theorem scanZero_ok {s : State} {a m : Nat} (h : a + m ≤ s.params.ramSize) :
    ∃ l z, s.scanZero a m = .ok (l, z) ∧ ScanFinds s a m l z := by
  induction m generalizing a with
  | zero => exact ⟨0, false, rfl, by simp [ScanFinds]⟩
  | succ m ih =>
    have hr := memRead_ok (s := s) (a := a) (by omega)
    by_cases hb : s.ramByte a = 0x00
    · exact ⟨0, true, by rw [State.scanZero, hr]; exact if_pos hb, by simp [ScanFinds, hb]⟩
    · obtain ⟨l, z, hs, hne, ht, hf⟩ := ih (a := a + 1) (by omega)
      refine ⟨l + 1, z, by rw [State.scanZero, hr]; simp only [if_neg hb, hs], ?_, ?_, ?_⟩
      · intro j hj
        cases j with
        | zero => simpa using hb
        | succ j =>
          have := hne j (by omega)
          rwa [Nat.add_assoc, Nat.add_comm 1 j] at this
      · intro hz
        have ⟨h1, h2⟩ := ht hz
        refine ⟨by omega, ?_⟩
        rwa [Nat.add_assoc, Nat.add_comm 1 l] at h2
      · intro hz
        have := hf hz
        omega

/-- What after_block does: consume the elided zero and go on, end the sequence, or go on. -/
theorem afterBlock_cases (s : State) :
    (s.encZero = true ∧ s.afterBlock =
      { s with encBlk := 0, encPtr := s.encPtr + 1, encRem := s.encRem - 1, encZero := false,
               encSt := .code }) ∨
    (s.encZero = false ∧ s.encRem = 0 ∧ s.afterBlock = { s with encBlk := 0, encSt := .term }) ∨
    (s.encZero = false ∧ s.encRem ≠ 0 ∧ s.afterBlock = { s with encBlk := 0, encSt := .code }) := by
  unfold State.afterBlock
  by_cases hz : s.encZero = true
  · simp [hz]
  · by_cases hr : s.encRem = 0 <;> simp [hz, hr, em]

/-- The DATA case inside a block: count the byte off and stay. -/
theorem pullData_inside {s : State} (b : Byte) (h : s.encBlk - 1 ≠ 0) :
    s.pullData b = { s with encOut := b, encPtr := s.encPtr + 1, encRem := s.encRem - 1,
                            encBlk := s.encBlk - 1 } := if_neg h

/-- The DATA case at the last byte of a block: count it off and end the block. -/
theorem pullData_last {s : State} (b : Byte) (h : s.encBlk - 1 = 0) :
    s.pullData b = State.afterBlock { s with encOut := b, encPtr := s.encPtr + 1,
                                             encRem := s.encRem - 1, encBlk := 0 } := by
  unfold State.pullData
  rw [h]
  exact if_pos rfl

/-- The CODE case of an empty block: end the block at once. -/
theorem pullCode_empty (s : State) (z : Bool) :
    s.pullCode 0 z = State.afterBlock { s with encZero := z, encOut := 1, encBlk := 0 } := rfl

/-- The CODE case of a block with data bytes. -/
theorem pullCode_block {s : State} {l : Nat} (z : Bool) (h : l ≠ 0) :
    s.pullCode l z = { s with encZero := z, encOut := BitVec.ofNat 8 (l + 1),
                              encBlk := BitVec.ofNat 8 l, encSt := .data } := if_neg h

/-- What ENC_PULL can do (R124): one case for each value of ENC_STATE.ST. -/
theorem execEncPull_cases {s t : State} (h : execEncPull s = .next t) :
    (s.encSt = .done ∧ t = s.complete .encEnd) ∨
    (s.encSt = .term ∧ t = State.complete { s with encOut := 0x00, encSt := .done } .encByte) ∨
    (s.encSt = .code ∧ ∃ l z,
      s.scanZero s.encPtr.toNat (min cobsMaxBlock s.encRem.toNat) = .ok (l, z) ∧
        t = (s.pullCode l z).complete .encByte) ∨
    (s.encSt = .data ∧ s.encPtr.toNat < s.params.ramSize ∧
      t = (s.pullData (s.ramByte s.encPtr.toNat)).complete .encByte) := by
  unfold execEncPull at h
  split at h
  · exact .inl ⟨‹_›, (finish_eq_next.1 h).symm⟩
  · exact .inr (.inl ⟨‹_›, (finish_eq_next.1 h).symm⟩)
  · obtain ⟨⟨l, z⟩, hs, hk⟩ := orFault_eq_next h
    exact .inr (.inr (.inl ⟨‹_›, l, z, hs, (finish_eq_next.1 hk).symm⟩))
  · obtain ⟨b, hb, hk⟩ := orFault_eq_next h
    obtain ⟨hlt, rfl⟩ := memRead_eq_ok hb
    exact .inr (.inr (.inr ⟨‹_›, hlt, (finish_eq_next.1 hk).symm⟩))

/-! ### The decoder (R140 to R149) -/

/-- What emit(v) does (R141): store and count the byte, or drop it and set OVF. -/
theorem emit_cases {s t : State} {v : Byte} {c : Code} (h : s.emit v = .ok (t, c)) :
    (s.decOvf = false ∧ s.decLen < s.decCap ∧ c = .decData ∧
      s.decBase.toNat + s.decLen.toNat < s.params.ramSize ∧
      t = { s with ram := s.ram.write (s.decBase.toNat + s.decLen.toNat) v,
                   decLen := s.decLen + 1 }) ∨
    (¬(s.decOvf = false ∧ s.decLen < s.decCap) ∧ c = .errOverflow ∧
      t = { s with decOvf := true }) := by
  unfold State.emit at h
  split at h
  · rename_i hc
    split at h
    · cases h
    · rename_i hw
      obtain ⟨hlt, rfl⟩ := memWrite_eq_ok hw
      cases h
      exact .inl ⟨hc.1, hc.2, rfl, hlt, rfl⟩
  · cases h
    exact .inr ⟨‹_›, rfl, rfl⟩

/-- Where the destination lies in the RAM (R35), emit never stops the machine. -/
theorem emit_ok {s : State} (v : Byte)
    (h : s.decBase.toNat + s.decCap.toNat ≤ s.params.ramSize) : ∃ r, s.emit v = .ok r := by
  unfold State.emit
  split
  · rename_i hc
    have hlt : s.decLen.toNat < s.decCap.toNat := hc.2
    rw [memWrite_ok v (by omega)]
    exact ⟨_, rfl⟩
  · exact ⟨_, rfl⟩

/-! ### The frame codec (R178, R182) -/

/-- What build can do (R178): refuse the width, refuse the range, or write the frame. -/
theorem frameBuild_cases {s t : State} {tail : Nat → Bool → Half → List Byte} {c : Bool}
    {words : List Half} (h : s.frameBuild tail c words = .next t) :
    (s.frameWidth = none ∧ t = s.complete .errConfig) ∨
    ∃ w, s.frameWidth = some w ∧
      ((s.params.ramSize < s.argAddr + (frameBytes tail w c words).length ∧
          t = s.complete .errBounds) ∨
       (s.argAddr + (frameBytes tail w c words).length ≤ s.params.ramSize ∧
          t = State.complete
            { s with ram := s.ram.writeBytes s.argAddr (frameBytes tail w c words),
                     frmLen := BitVec.ofNat 32 (frameBytes tail w c words).length,
                     frmCrc := crc16 (frameData w words) } .ok)) := by
  unfold State.frameBuild at h
  split at h
  · exact .inl ⟨‹_›, (raise_eq_next.1 h).symm⟩
  · rename_i w hw
    refine .inr ⟨w, hw, ?_⟩
    by_cases hr : s.argAddr + (frameBytes tail w c words).length ≤ s.params.ramSize
    · rw [if_pos ((inRam_iff _ _ _).2 hr), memWriteSpan_ok hr, orFault_ok] at h
      exact .inr ⟨hr, (finish_eq_next.1 h).symm⟩
    · rw [if_neg (by rwa [inRam_iff])] at h
      exact .inl ⟨by omega, (raise_eq_next.1 h).symm⟩

/-- What verify can do (R182): refuse the width, refuse the range, accept or reject the frame. -/
theorem frameVerify_cases {s t : State} {k : Nat} (hk : 2 ≤ k) (h : s.frameVerify k = .next t) :
    (s.frameWidth = none ∧ t = s.rejectFrame.complete .errConfig) ∨
    ∃ w, s.frameWidth = some w ∧
      ((s.params.ramSize < s.argAddr + k * w ∧ t = s.rejectFrame.complete .errBounds) ∨
       (s.argAddr + k * w ≤ s.params.ramSize ∧
        ∃ data u, data = s.ram.bytes s.argAddr ((k - 1) * w) ∧ u = s.measureFrame (k * w) data ∧
        ((crc16 data = word16 (s.ram.bytes (s.argAddr + (k - 1) * w) 2) ∧
            t = (u.acceptFrame data).complete .ok) ∨
         (crc16 data ≠ word16 (s.ram.bytes (s.argAddr + (k - 1) * w) 2) ∧
            t = u.rejectFrame.complete .errCrc)))) := by
  unfold State.frameVerify at h
  split at h
  · exact .inl ⟨‹_›, (raise_eq_next.1 h).symm⟩
  · rename_i w hw
    refine .inr ⟨w, hw, ?_⟩
    by_cases hr : s.argAddr + k * w ≤ s.params.ramSize
    · obtain ⟨-, hw2⟩ := frameWidth_eq_some hw
      obtain ⟨j, rfl⟩ : ∃ j, k = j + 1 := ⟨k - 1, by omega⟩
      have hj : (j + 1) * w = j * w + w := by ring
      have e : j + 1 - 1 = j := rfl
      rw [if_pos ((inRam_iff _ _ _).2 hr), e, memReadSpan_ok (by omega), orFault_ok,
        memReadSpan_ok (by omega), orFault_ok] at h
      refine .inr ⟨hr, _, _, rfl, rfl, ?_⟩
      rw [e]
      unfold State.judgeFrame at h
      split at h
      · exact .inl ⟨‹_›, (finish_eq_next.1 h).symm⟩
      · exact .inr ⟨‹_›, (raise_eq_next.1 h).symm⟩
    · rw [if_neg (by rwa [inRam_iff])] at h
      exact .inl ⟨by omega, (raise_eq_next.1 h).symm⟩

/-! ### The host port (R61 to R66) -/

/-- The register map is a bijection on the listed offsets (R23). -/
theorem atOffset_offset (r : Reg) : Reg.atOffset r.offset = some r := by cases r <;> rfl

theorem atOffset_eq_some {off : Nat} {r : Reg} (h : Reg.atOffset off = some r) :
    off = r.offset := by
  have := List.find?_some h
  simpa using (by simpa using this : r.offset = off).symm

/-- A read answers and changes nothing else (R66). -/
theorem hostRead_eq (off bits : Nat) (s : State) :
    ∃ b d, hostRead off bits s = s.answer b d := by
  unfold hostRead
  split
  · split
    · exact ⟨_, _, rfl⟩
    · exact ⟨_, _, rfl⟩
  · split
    · exact ⟨_, _, rfl⟩
    · exact ⟨_, _, rfl⟩

/-- What a write can do (R62 to R65): run a command word, store in a register or in a RAM byte, or
change nothing but the bus's answer. -/
theorem hostWrite_cases {off bits : Nat} {v : Word} {s t : State}
    (h : hostWrite off bits v s = .next t) :
    (off = Reg.cmd.offset ∧ bits = 32 ∧ ∃ u, runWord v s = .next u ∧ t = u.acked) ∨
    (∃ r, r ≠ .cmd ∧ off = r.offset ∧ bits = 32 ∧ t = (s.writeReg r v).acked) ∨
    (∃ a, off = ramWindow + a ∧ bits = 8 ∧ a < s.params.ramSize ∧
      t = State.acked { s with ram := s.ram.write a (v.extractLsb' 0 8) }) ∨
    (∃ b, t = s.answer b 0) := by
  unfold hostWrite at h
  split at h
  · split at h
    · rename_i hok
      have hb : bits = 32 := by simp [regAccessOk] at hok; exact hok.1
      split at h
      · rename_i hr
        unfold ackResult at h
        split at h
        · rename_i u hu
          cases h
          exact .inl ⟨atOffset_eq_some hr, hb, _, hu, rfl⟩
        · cases h
        · cases h
      · rename_i r hne hr
        cases h
        exact .inr (.inl ⟨r, fun e => hne (by simp [e]), atOffset_eq_some hr, hb, rfl⟩)
      · cases h
        exact .inr (.inr (.inr ⟨_, rfl⟩))
    · cases h
      exact .inr (.inr (.inr ⟨_, rfl⟩))
  · rename_i hoff
    split at h
    · rename_i hok
      dsimp only at h
      split at h
      · rename_i hlt
        cases h
        refine .inr (.inr (.inl ⟨off - ramWindow, by omega, by simpa [ramAccessOk] using hok, hlt,
          rfl⟩))
      · cases h
        exact .inr (.inr (.inr ⟨_, rfl⟩))
    · cases h
      exact .inr (.inr (.inr ⟨_, rfl⟩))

/-- What a step can do: hold the state when the host is silent, or perform its next access. -/
theorem step_cases {s t : State} (h : step s = .next t) :
    (s.host = [] ∧ t = s) ∨
    ∃ a rest, s.host = a :: rest ∧ performAccess a { s with host := rest } = .next t := by
  unfold step hostStep at h
  split at h
  · cases h; exact .inl ⟨‹_›, rfl⟩
  · exact .inr ⟨_, _, ‹_›, h⟩

end Sys2Proof.Machine
end

