-- ==== Sys2Proof/Laws/PerInstr.lean ====
section
/-! SUPPORT. Per-instruction families of lemmas (LAWS.json). `EncodedFields`: the four fields of the
command word that a command encodes to (spec/30_encoding.md R81). -/

namespace Sys2Proof.Laws

/-- The fields of `encode i`, by R81: OP, F, RSV = 0 and IMM8. -/
def EncodedFields.Statement (i : Instr) : Prop :=
  opField (encode i) = i.mnemonic.op ∧ flagField (encode i) = flagByte i.flag ∧
    reservedField (encode i) = 0 ∧ immField (encode i) = i.imm

/-- The fields of a word laid out as R81 says. -/
theorem fields_append (op f r imm : Byte) :
    opField (op ++ f ++ r ++ imm) = op ∧ flagField (op ++ f ++ r ++ imm) = f ∧
      reservedField (op ++ f ++ r ++ imm) = r ∧ immField (op ++ f ++ r ++ imm) = imm := by
  unfold opField flagField reservedField immField
  refine ⟨?_, ?_, ?_, ?_⟩ <;>
  · apply BitVec.eq_of_getLsbD_eq
    intro k hk
    rw [BitVec.getLsbD_extractLsb']
    interval_cases k <;> simp only [BitVec.getLsbD_append] <;> simp

theorem encoded_fields (i : Instr) : EncodedFields.Statement i := fields_append _ _ _ _

theorem EncodedFields.nop : EncodedFields.Statement .nop :=
  encoded_fields _

theorem EncodedFields.softReset : EncodedFields.Statement .softReset :=
  encoded_fields _

theorem EncodedFields.clrErr : EncodedFields.Statement .clrErr :=
  encoded_fields _

theorem EncodedFields.crcInit : EncodedFields.Statement .crcInit :=
  encoded_fields _

theorem EncodedFields.crcByte (b : Byte) : EncodedFields.Statement (.crcByte b) :=
  encoded_fields _

theorem EncodedFields.crcSpan (i : Bool) : EncodedFields.Statement (.crcSpan i) :=
  encoded_fields _

theorem EncodedFields.encStart : EncodedFields.Statement .encStart :=
  encoded_fields _

theorem EncodedFields.encPull : EncodedFields.Statement .encPull :=
  encoded_fields _

theorem EncodedFields.decReset : EncodedFields.Statement .decReset :=
  encoded_fields _

theorem EncodedFields.decPush (b : Byte) : EncodedFields.Statement (.decPush b) :=
  encoded_fields _

theorem EncodedFields.frmBuildShort (c : Bool) : EncodedFields.Statement (.frmBuildShort c) :=
  encoded_fields _

theorem EncodedFields.frmBuildWrite (c : Bool) : EncodedFields.Statement (.frmBuildWrite c) :=
  encoded_fields _

theorem EncodedFields.frmBuildNormal (c : Bool) : EncodedFields.Statement (.frmBuildNormal c) :=
  encoded_fields _

theorem EncodedFields.frmVerifyShort : EncodedFields.Statement .frmVerifyShort :=
  encoded_fields _

theorem EncodedFields.frmVerifyWrite : EncodedFields.Statement .frmVerifyWrite :=
  encoded_fields _

theorem EncodedFields.frmVerifyNormal : EncodedFields.Statement .frmVerifyNormal :=
  encoded_fields _

theorem EncodedFields.frmWord (j : Byte) : EncodedFields.Statement (.frmWord j) :=
  encoded_fields _

end Sys2Proof.Laws
end

