-- ==== Sys2Proof/Tests/Slice0.lean ====
section
/-! SUPPORT. The model's own tests. Expected values are those of spec/95_test_vectors.md or of the
examples of the rules named. The witnesses show that the hypotheses of each statement of
Certificates/Slice0/Obligations.lean can be met, clause by clause. -/

namespace Sys2Proof.Tests

open Sys2Proof.Machine

/-! ### Well-formedness: each check refuses an ill-formed term -/

theorem test_suffix_refused :
    AsmLine.suffixOk { mnemonic := .nop, suffix := some .withCrc, operand := none } = false ∧
    AsmLine.suffixOk { mnemonic := .crcSpan, suffix := some .withCrc, operand := none } = false := by
  decide

theorem test_operand_presence_refused :
    AsmLine.operandPresenceOk { mnemonic := .encPull, suffix := none, operand := some 0 } = false ∧
    AsmLine.operandPresenceOk { mnemonic := .decPush, suffix := none, operand := none } = false := by
  decide

theorem test_operand_range_refused :
    AsmLine.operandRangeOk { mnemonic := .frmWord, suffix := none, operand := some 256 } = false := by
  decide

theorem test_ill_formed_lines_refused :
    AsmLine.wellFormed { mnemonic := .nop, suffix := some .withCrc, operand := none } = false ∧
    AsmLine.wellFormed { mnemonic := .encPull, suffix := none, operand := some 0 } = false ∧
    AsmLine.wellFormed { mnemonic := .frmWord, suffix := none, operand := some 256 } = false := by
  decide

theorem test_empty_ram_refused :
    Params.ramNonempty { ramSize := 0, base := 0 } = false ∧
    Params.wellFormed { ramSize := 0, base := 0 } = false := by decide

theorem test_oversized_ram_refused :
    Params.ramFitsWindow { ramSize := 65537, base := 0 } = false ∧
    Params.wellFormed { ramSize := 65537, base := 0 } = false := by decide

/-! ### Decoding: words written out from R85 -/

theorem test_decode_control :
    decode 0x00000000 = .ok .nop ∧ decode 0x01000000 = .ok .softReset ∧
    decode 0x02000000 = .ok .clrErr := by decide

theorem test_decode_crc :
    decode 0x10000000 = .ok .crcInit ∧ decode 0x11000031 = .ok (.crcByte 0x31) ∧
    decode 0x12000000 = .ok (.crcSpan false) ∧ decode 0x12010000 = .ok (.crcSpan true) := by decide

theorem test_decode_encoder :
    decode 0x20000000 = .ok .encStart ∧ decode 0x21000000 = .ok .encPull := by decide

theorem test_decode_decoder :
    decode 0x30000000 = .ok .decReset ∧ decode 0x310000FF = .ok (.decPush 0xFF) := by decide

theorem test_decode_build :
    decode 0x40000000 = .ok (.frmBuildShort false) ∧ decode 0x40010000 = .ok (.frmBuildShort true) ∧
    decode 0x41000000 = .ok (.frmBuildWrite false) ∧ decode 0x41010000 = .ok (.frmBuildWrite true) ∧
    decode 0x42000000 = .ok (.frmBuildNormal false) ∧
    decode 0x42010000 = .ok (.frmBuildNormal true) := by decide

theorem test_decode_verify :
    decode 0x48000000 = .ok .frmVerifyShort ∧ decode 0x49000000 = .ok .frmVerifyWrite ∧
    decode 0x4A000000 = .ok .frmVerifyNormal ∧ decode 0x50000003 = .ok (.frmWord 3) := by decide

/-- The words of L2-ILL. -/
def illegalWords : List Word :=
  [0x00000001, 0x00010000, 0x03000000, 0x10000001, 0x11010031, 0x12020000, 0x12000100, 0x21000001,
   0x22000000, 0x31000100, 0x40030000, 0x43000000, 0x48010000, 0x4B000000, 0x50000100, 0x51000000,
   0xFF000000]

theorem test_illegal_words : (illegalWords.all fun w => (decode w).toOption.isNone) = true := by
  decide +kernel

theorem test_decode_table_word :
    decodeTableWord 32 0x50000003 = some (.frmWord 3) ∧ decodeTableWord 32 0x03000000 = none := by
  decide

/-! ### One step of each command -/

/-- A block with the RAM of the examples (4096 bytes) holding `ram`, right after power-on. -/
def fresh (ram : Memory) : State := State.powerOn Params.ofExamples ram

/-- The RAM that holds the given bytes from an address up. -/
def cells : Nat → List Byte → Memory
  | _, [] => []
  | a, b :: rest => if b = 0x00 then cells (a + 1) rest else (a, b) :: cells (a + 1) rest

/-- The next state, where there is one. -/
def nextOf : Result → Option State
  | .next t => some t
  | .fault _ => none
  | .refused _ => none

/-- What registers read, in order, after a command. -/
def regsAfter (i : Instr) (s : State) (rs : List Reg) : Option (List Word) :=
  (nextOf (exec i s)).map fun t => rs.map t.readReg

/-- The `n` RAM bytes from an address after a command. -/
def bytesAfter (i : Instr) (s : State) (a n : Nat) : Option (List Byte) :=
  (nextOf (exec i s)).map fun t => t.ram.bytes a n

/-- A state whose STATUS reads 0x00000182 (R200's example). -/
def failed : State := { fresh [] with code := .errBounds, err := true }

/-- A state whose STATUS reads 0x00000382 (R202's example). -/
def failedVerified : State := { failed with frmValid := true }

theorem test_nop_keeps_err : regsAfter .nop failed [.status] = some [0x100] := by decide

theorem test_clr_err_keeps_frm_valid :
    failedVerified.readReg .status = 0x382 ∧
    regsAfter .clrErr failedVerified [.status] = some [0x200] := by decide

/-- L2-CTL: CFG = 403, CRC_ACC = 1234, STATUS = 385, RAM[0] = 07. -/
def busy : State :=
  { fresh (cells 0 [0x07]) with
    cfgWidth := 3, cfgChannels := 4, crcAcc := 0x1234, code := .decComplete, err := true,
    frmValid := true }

theorem test_soft_reset :
    busy.readReg .cfg = 0x403 ∧
    regsAfter .softReset busy [.status, .cfg, .crcAcc] = some [0, 0, 0xFFFF] ∧
    bytesAfter .softReset busy 0 1 = some [0x07] := by decide

theorem test_crc_init : regsAfter .crcInit busy [.crcAcc] = some [0xFFFF] := by decide

theorem test_crc_byte :
    regsAfter (.crcByte 0x31) (fresh []) [.crcAcc, .status] = some [0xC782, 0] ∧
    regsAfter (.crcByte 0xFF) (fresh []) [.crcAcc] = some [0xFF00] := by decide

/-- "123456789" at 0x100. -/
def digits : Memory := cells 0x100 [0x31, 0x32, 0x33, 0x34, 0x35, 0x36, 0x37, 0x38, 0x39]

theorem test_crc_span_restarts :
    regsAfter (.crcSpan true) { fresh digits with arg0 := 0x100, arg1 := 9, crcAcc := 0x1234 }
      [.crcAcc, .status] = some [0x29B1, 0] := by decide +kernel

theorem test_crc_span_continues :
    regsAfter (.crcSpan false) { fresh digits with arg0 := 0x105, arg1 := 4, crcAcc := 0x4560 }
      [.crcAcc] = some [0x29B1] := by decide +kernel

/-- The state of L2-ENC-3 before ENC_START: the payload [11 00 22] at 0x200. -/
def encReady : State :=
  { fresh (cells 0x200 [0x11, 0x00, 0x22]) with arg0 := 0x200, arg1 := 3 }

theorem test_enc_start :
    regsAfter .encStart encReady [.status, .encState, .encPtr, .encRem]
      = some [0, 1, 0x200, 3] := by decide

theorem test_enc_start_limit :
    regsAfter .encStart { fresh [] with arg0 := 4090, arg1 := 7 } [.status, .encState]
      = some [0x182, 0] ∧
    regsAfter .encStart { fresh [] with arg0 := 4090, arg1 := 6 } [.status, .encPtr]
      = some [0, 0xFFA] := by decide

/-- L2-ENC-3 before pull 1. -/
def encCode : State := { encReady with encSt := .code, encPtr := 0x200, encRem := 3 }

/-- L2-ENC-3 before pull 2. -/
def encData : State := { encCode with encSt := .data, encBlk := 1, encZero := true }

theorem test_enc_pull_code :
    regsAfter .encPull encCode [.status, .encOut, .encState, .encPtr, .encRem]
      = some [1, 0x02, 0x00010102, 0x200, 3] := by decide

theorem test_enc_pull_data :
    regsAfter .encPull encData [.status, .encOut, .encState, .encPtr, .encRem]
      = some [1, 0x11, 0x00000001, 0x202, 1] := by decide

theorem test_dec_reset :
    regsAfter .decReset { fresh [] with arg0 := 4000, arg1 := 96, decSt := .block, decCnt := 3 }
      [.status, .decBase, .decCap, .decState, .decLen] = some [0, 0xFA0, 0x60, 0, 0] ∧
    regsAfter .decReset { fresh [] with arg0 := 4000, arg1 := 97 } [.status] = some [0x182] := by
  decide

/-- L2-DEC-1: DEC_BASE = 0x300, DEC_CAP = 16. -/
def decAt (st : DecSt) (cnt : Byte) (len : Word) : State :=
  { fresh [] with decBase := 0x300, decCap := 16, decSt := st, decCnt := cnt, decLen := len }

/-- Row 5 of L2-DEC-1: the implicit zero before a code byte 0xFF. -/
theorem test_dec_push_implicit_zero :
    regsAfter (.decPush 0xFF) (decAt .block 0 2) [.status, .decState, .decLen]
      = some [4, 0x0000FE02, 3] := by decide

/-- Rows 13, 12 and 14 of L2-DEC-1. -/
theorem test_dec_push_literal_and_errors :
    bytesAfter (.decPush 0x42) (decAt .pblock 254 1) 0x301 1 = some [0x42] ∧
    regsAfter (.decPush 0x00) (decAt .pblock 254 1) [.status, .decState, .decLen]
      = some [0x184, 0, 0] ∧
    regsAfter (.decPush 0x03) (decAt .block 0 16) [.status, .decState, .decLen]
      = some [0x185, 0x00010201, 16] := by decide

/-- A frame state: width, channels, ARG0, ARG2, ARG3. -/
def framing (ram : Memory) (w : BitVec 3) (n : Byte) (a c v : Word) : State :=
  { fresh ram with cfgWidth := w, cfgChannels := n, arg0 := a, arg2 := c, arg3 := v }

theorem test_build_short :
    bytesAfter (.frmBuildShort true) (framing [] 2 0 0x500 0 0) 0x500 4
      = some [0x00, 0x00, 0x1D, 0x0F] ∧
    regsAfter (.frmBuildShort false) (framing [] 2 0 0x500 0 0) [.frmLen, .frmCrc]
      = some [2, 0x1D0F] := by decide +kernel

theorem test_build_write :
    bytesAfter (.frmBuildWrite true) (framing [] 3 0 0x500 0xFFFF6180 0xABCD1234) 0x500 9
      = some [0x61, 0x80, 0x00, 0x12, 0x34, 0x00, 0xD2, 0x2A, 0x00] ∧
    regsAfter (.frmBuildWrite true) (framing [] 3 0 4090 0x6180 0x1234) [.status]
      = some [0x182] := by decide +kernel

theorem test_build_normal :
    bytesAfter (.frmBuildNormal true) (framing [] 2 2 0x500 0 0) 0x500 8
      = some [0x00, 0x00, 0x00, 0x00, 0x00, 0x00, 0x0E, 0x10] ∧
    bytesAfter (.frmBuildNormal false) (framing (cells 0x500 [1, 1, 1, 1, 1, 1]) 3 0 0x500 0x1234 0)
      0x500 6 = some [0x12, 0x34, 0x00, 0x00, 0x00, 0x00] := by decide +kernel

/-- The short frame of L2-FRM-1, W = 2. -/
def shortFrame : Memory := cells 0x500 [0x00, 0x00, 0x1D, 0x0F]

theorem test_verify_short :
    regsAfter .frmVerifyShort (framing shortFrame 2 0 0x500 0 0) [.status, .frmCrc, .frmLen]
      = some [0x200, 0x1D0F, 4] ∧
    regsAfter .frmVerifyShort (framing (cells 0x500 [0x00, 0x00, 0x1D, 0x0E]) 2 0 0x500 0 0)
      [.status, .frmCrc] = some [0x183, 0x1D0F] := by decide +kernel

/-- The write-one frame of L2-FRM-1, W = 3, with the value's high byte and the CRC padding given. -/
def writeFrame (v pad : Byte) : Memory :=
  cells 0x500 [0x61, 0x80, 0x00, v, 0x34, 0x00, 0xD2, 0x2A, pad]

/-- L2-FRM-3: a flipped data byte fails, a flipped padding byte of the CRC word passes. -/
theorem test_verify_write :
    regsAfter .frmVerifyWrite (framing (writeFrame 0x13 0) 3 0 0x500 0 0)
      [.status, .frmCrc, .frmResp] = some [0x183, 0xE51A, 0] ∧
    regsAfter .frmVerifyWrite (framing (writeFrame 0x12 0x80) 3 0 0x500 0 0)
      [.status, .frmCrc, .frmResp] = some [0x200, 0xD22A, 0x6180] := by decide +kernel

/-- The response frame of program P4: W = 3, N = 2. -/
def response : Memory :=
  cells 0x600 [0xFF, 0x22, 0x00, 0xFF, 0xFF, 0xFE, 0x7F, 0xFF, 0xFF, 0xBA, 0xB0, 0x00]

theorem test_verify_normal :
    regsAfter .frmVerifyNormal (framing response 3 2 0x600 0 0)
      [.status, .frmLen, .frmCrc, .frmResp] = some [0x200, 12, 0xBAB0, 0xFF22] := by decide +kernel

theorem test_frm_word :
    regsAfter (.frmWord 1) (framing response 3 2 0x600 0 0) [.status, .frmSval]
      = some [0, 0xFFFFFFFE] ∧
    regsAfter (.frmWord 2) (framing response 3 2 0x600 0 0) [.frmWval, .frmSval]
      = some [0x7FFF, 0x007FFFFF] := by decide

/-! ### The host port -/

theorem test_first_step_after_reset :
    (nextOf (step (State.reset.withFetchWord 32 0x11000031))).map (fun t => (t.crcAcc, t.resp))
      = some (0xC782, { status := .okay, data := 0 }) := by decide

/-- L2-ILL: an illegal word changes STATUS alone. -/
theorem test_illegal_word_step :
    (nextOf (step (State.withFetchWord { fresh [] with crcAcc := 0x1234 } 32 0x11000100))).map
      (fun t => [t.readReg .status, t.readReg .crcAcc]) = some [0x180, 0x1234] := by decide

/-- Programs P2, line 2, and P4, line 1, as their accesses (R89, R90). -/
theorem test_pseudo_lines :
    (Pseudo.lines (.cfgw 3 2)).map (HostLine.access { ramSize := 4096, base := 0x1000 })
      = [.write 0x1008 32 0x203] ∧
    (Pseudo.lines (.enc 0x200 3)).map (HostLine.access { ramSize := 4096, base := 0x1000 })
      = [.write 0x1010 32 0x200, .write 0x1014 32 3, .write 0x1000 32 0x20000000] := by decide

theorem test_encode_examples :
    cobsEncode [] = [0x01, 0x00] ∧ cobsEncode [0x00] = [0x01, 0x01, 0x00] ∧
    cobsEncode [0x11, 0x00, 0x22] = [0x02, 0x11, 0x02, 0x22, 0x00] := by decide

/-! ### Witnesses: states and operands that meet the hypotheses of the statements -/

/-! #### The command word -/

/-- EncodeOfDecodeIsTheWord, DecoderFollowsTheOpcodeMap and NoWordMatchesTwoRows: a word of a row. -/
theorem witness_word_of_a_row :
    decode 0x12010000 = .ok (.crcSpan true) ∧
    { mnemonic := .crcSpan, pattern := 0x12000000, mask := 0xFFFEFFFF } ∈ opcodeTable ∧
    (0x12010000 : Word) &&& 0xFFFEFFFF = 0x12000000 := by decide

/-- AssemblerFollowsItsSyntax: a line that fits, with the largest operand, and one that does not, with
the next one. -/
theorem witness_assembler_lines :
    (Mnemonic.decPush ∈ [Mnemonic.crcByte, .decPush, .frmWord] ∧ 255 < 256) ∧
    assemble { mnemonic := .decPush, suffix := none, operand := some 255 } = some 0x310000FF ∧
    assemble { mnemonic := .decPush, suffix := none, operand := some 256 } = none ∧
    assemble { mnemonic := .encPull, suffix := some .withCrc, operand := none } = none := by decide

/-- IllegalWordOnlyReports, and the illegal words of ErrIsSticky and CodesAreThoseOfTheTable. -/
theorem witness_illegal_word :
    (∀ row ∈ opcodeTable, (0x11000100 : Word) &&& row.mask ≠ row.pattern) ∧
    decode 0x11000100 = .error .reservedField := by decide

/-! #### The step -/

/-- CmdWriteRunsItsWord, both clauses, and StepRunsTheFetchWord. -/
theorem witness_cmd_write :
    { fresh [] with host := [issueWord Params.ofExamples 0] }.host
      = issueWord (fresh []).params 0 :: [] ∧
    decode 0 = .ok .nop ∧ decode 0x00000001 = .error .immediate ∧
    decodeTableWord 32 0 = some .nop := by decide

/-! #### The CRC unit -/

/-- CrcSpanFoldsItsSpan: a span that ends exactly at RAM_SIZE, and one byte more. -/
theorem witness_crc_span :
    let s := { fresh [] with arg0 := 4087, arg1 := 9 }
    let u := { fresh [] with arg0 := 4088, arg1 := 9 }
    s.arg0.toNat + s.arg1.toNat ≤ s.params.ramSize ∧
    u.params.ramSize < u.arg0.toNat + u.arg1.toNat := by decide

/-- CrcContinuesOverPieces: two pieces up to the RAM's last byte. -/
theorem witness_crc_pieces :
    let s := { fresh [] with arg0 := 4087, arg1 := 5 }
    s.arg0.toNat + s.arg1.toNat + (4 : Word).toNat ≤ s.params.ramSize ∧
    s.params.wellFormed = true := by decide

/-- CrcDetectsOneFlippedBit: the last bit of the last of two bytes. -/
theorem witness_crc_flip :
    let s := { fresh (cells 0x100 [0x31, 0x32]) with arg0 := 0x100, arg1 := 2 }
    let u := { fresh (cells 0x100 [0x31, 0xB2]) with arg0 := 0x100, arg1 := 2 }
    s.arg0.toNat + s.arg1.toNat ≤ s.params.ramSize ∧ u.params = s.params ∧ u.arg0 = s.arg0 ∧
      u.arg1 = s.arg1 ∧ 1 < s.arg1.toNat ∧ 7 < 8 ∧
      OneBitFlipped s.arg0.toNat s.arg1.toNat 1 7 s u := by
  unfold OneBitFlipped; decide

/-- CrcAccBelongsToTheCrcUnit. -/
theorem witness_other_unit :
    (Instr.frmWord 0).mnemonic ∉ [Mnemonic.crcInit, .crcByte, .crcSpan, .softReset] := by decide

/-! #### The encoder -/

/-- EncStartLoadsTheCursor and PullsEmitTheEncoding: a payload that ends exactly at RAM_SIZE,
and one byte more. -/
theorem witness_enc_start :
    let s := { fresh [] with arg0 := 4090, arg1 := 6 }
    let u := { fresh [] with arg0 := 4090, arg1 := 7 }
    s.params.wellFormed = true ∧ s.arg0.toNat + s.arg1.toNat ≤ s.params.ramSize ∧
    u.params.ramSize < u.arg0.toNat + u.arg1.toNat := by decide

/-- The encoder invariants of a state, decided. -/
theorem encInv_of {s : State} (a : s.encPtr.toNat + s.encRem.toNat ≤ s.params.ramSize)
    (b : s.encSt = .data →
      1 ≤ s.encBlk.toNat ∧ s.encBlk.toNat ≤ 254 ∧ s.encBlk.toNat ≤ s.encRem.toNat)
    (c : s.encZero = true → s.encSt = .data ∧ s.encBlk.toNat + 1 ≤ s.encRem.toNat)
    (d : s.encSt ≠ .data → s.encBlk = 0 ∧ s.encZero = false)
    (e : s.encSt = .done ∨ s.encSt = .term → s.encRem = 0) : EncInv s := ⟨a, b, c, d, e⟩

/-- EncPullFollowsTheCursor in DONE and in TERM. -/
theorem witness_pull_done_term :
    EncInv (fresh []) ∧ (fresh []).encSt = .done ∧
    EncInv { fresh [] with encSt := .term } ∧ (fresh []).params.wellFormed = true :=
  ⟨encInv_of (by decide) (by decide) (by decide) (by decide) (by decide), rfl,
    encInv_of (by decide) (by decide) (by decide) (by decide) (by decide), by decide⟩

/-- EncPullFollowsTheCursor in CODE, the scan ending at a zero behind one byte (l = 1, z), at a zero at
once (l = 0, z), at the end of a payload of three (l = 3, not z) and of an empty one (l = 0, not z). -/
theorem witness_pull_code :
    (EncInv encCode ∧ encCode.encSt = .code ∧
      ScanFinds encCode encCode.encPtr.toNat (min 254 encCode.encRem.toNat) 1 true) ∧
    (EncInv { encCode with encPtr := 0x201, encRem := 2 } ∧
      ScanFinds encCode 0x201 (min 254 2) 0 true) ∧
    (EncInv { fresh digits with encSt := .code, encPtr := 0x100, encRem := 3 } ∧
      ScanFinds (fresh digits) 0x100 (min 254 3) 3 false) ∧
    (EncInv { fresh [] with encSt := .code, encPtr := 4096 } ∧
      ScanFinds (fresh []) 4096 (min 254 0) 0 false) := by
  refine ⟨⟨encInv_of ?_ ?_ ?_ ?_ ?_, rfl, ?_⟩, ⟨encInv_of ?_ ?_ ?_ ?_ ?_, ?_⟩,
    ⟨encInv_of ?_ ?_ ?_ ?_ ?_, ?_⟩, encInv_of ?_ ?_ ?_ ?_ ?_, ?_⟩ <;>
    first | decide | (unfold ScanFinds; decide)

/-- EncPullFollowsTheCursor in DATA: more than one byte left, the last before an elided zero, the last
of the payload, and the last of a full block with payload behind it. -/
theorem witness_pull_data :
    (EncInv { fresh digits with encSt := .data, encBlk := 2, encPtr := 0x100, encRem := 2 }) ∧
    (EncInv encData ∧ encData.encBlk.toNat = 1 ∧ encData.encZero = true) ∧
    (EncInv { fresh digits with encSt := .data, encBlk := 1, encPtr := 4095, encRem := 1 }) ∧
    EncInv { fresh digits with encSt := .data, encBlk := 1, encPtr := 0x100, encRem := 2 } := by
  refine ⟨encInv_of ?_ ?_ ?_ ?_ ?_, ⟨encInv_of ?_ ?_ ?_ ?_ ?_, rfl, rfl⟩,
    encInv_of ?_ ?_ ?_ ?_ ?_, encInv_of ?_ ?_ ?_ ?_ ?_⟩ <;> decide

/-- CobsEncodeFollowsItsBlocks: payloads of 254, 253 and 254 bytes without a 0x00; and
CobsEncodeLengthBounds. -/
theorem witness_blocks :
    (List.replicate 254 (0x01 : Byte)).length ≤ 254 ∧ (0x00 : Byte) ∉ List.replicate 254 0x01 ∧
    (List.replicate 253 (0x01 : Byte)).length < 254 ∧ (0x00 : Byte) ∉ List.replicate 253 0x01 ∧
    (List.replicate 254 (0x01 : Byte)).length = 254 ∧ [(0x00 : Byte)] ≠ [] := by
  simp only [List.length_replicate, List.mem_replicate]; decide

/-- Nothing between two pulls is quiet. -/
theorem quiet_self (a n : Nat) (s : State) : Quiet a n s s :=
  ⟨rfl, rfl, rfl, rfl, rfl, rfl, fun _ _ _ => rfl⟩

/-- The state after some commands. -/
def after (s : State) (commands : List Instr) : State :=
  commands.foldl (fun t i => (nextOf (exec i t)).getD t) s

/-- The payload [11 00 22] of L2-ENC-3 with `k` bytes pulled. -/
def pulled (k : Nat) : State := after encReady (.encStart :: List.replicate k .encPull)

/-- The bytes of those pulls. -/
def pulledBytes : List Byte :=
  [(pulled 1).encOut, (pulled 2).encOut, (pulled 3).encOut, (pulled 4).encOut, (pulled 5).encOut]

/-- PullsEmitTheEncoding: after ENC_START over a payload of three bytes, five pulls, the trace cut
after two of them, and then ENC_END. -/
theorem witness_pulls :
    exec .encStart encReady = .next (pulled 0) ∧
      PullTrace 0x200 3 (pulled 0) [(pulled 1).encOut, (pulled 2).encOut] (pulled 2) ∧
      PullTrace 0x200 3 (pulled 0) pulledBytes (pulled 5) ∧
      exec .encPull (pulled 5) = .next (pulled 6) ∧
      pulledBytes = [0x02, 0x11, 0x02, 0x22, 0x00] ∧ (pulled 6).code = .encEnd :=
  have q := fun s => quiet_self 0x200 3 s
  ⟨rfl, .pull (q _) rfl rfl (.pull (q _) rfl rfl (.rest (q _))),
    .pull (q _) rfl rfl (.pull (q _) rfl rfl (.pull (q _) rfl rfl (.pull (q _) rfl rfl
      (.pull (q _) rfl rfl (.rest (q _)))))), rfl, by decide, rfl⟩

/-! #### The decoder -/

/-- DecResetSetsTheDestination: a destination that ends exactly at RAM_SIZE, and one byte more. -/
theorem witness_dec_reset :
    let s := { fresh [] with arg0 := 4000, arg1 := 96 }
    let u := { fresh [] with arg0 := 4000, arg1 := 97 }
    s.arg0.toNat + s.arg1.toNat ≤ s.params.ramSize ∧
    u.params.ramSize < u.arg0.toNat + u.arg1.toNat := by decide

/-- The decoder invariants of a state, decided. -/
theorem decInv_of {s : State} (a : s.decLen.toNat ≤ s.decCap.toNat)
    (b : s.decBase.toNat + s.decCap.toNat ≤ s.params.ramSize)
    (c : s.decSt = .idle → s.decCnt = 0 ∧ s.decOvf = false)
    (d : s.decSt = .block → s.decCnt.toNat ≤ 253) (e : s.decSt = .pblock → s.decCnt.toNat ≤ 254) :
    DecInv s := ⟨a, b, c, d, e⟩

/-- DecPushFollowsItsTable and the statements over DecInv: IDLE, BLOCK(0), BLOCK(253), PBLOCK(0) and
PBLOCK(254), with room for one more byte, with none, and with OVF set. Each row's input byte is free. -/
theorem witness_dec_states :
    DecInv (decAt .idle 0 16) ∧ DecInv (decAt .block 0 15) ∧ DecInv (decAt .block 253 15) ∧
    DecInv (decAt .pblock 0 15) ∧ DecInv (decAt .pblock 254 15) ∧ DecInv (decAt .block 0 16) ∧
    DecInv { decAt .block 0 16 with decOvf := true } ∧
    DecInv { decAt .pblock 0 16 with decOvf := true } := by
  refine ⟨decInv_of ?_ ?_ ?_ ?_ ?_, decInv_of ?_ ?_ ?_ ?_ ?_, decInv_of ?_ ?_ ?_ ?_ ?_,
    decInv_of ?_ ?_ ?_ ?_ ?_, decInv_of ?_ ?_ ?_ ?_ ?_, decInv_of ?_ ?_ ?_ ?_ ?_,
    decInv_of ?_ ?_ ?_ ?_ ?_, decInv_of ?_ ?_ ?_ ?_ ?_⟩ <;> decide

/-- DecodeOfEncodeIsThePayload and OverflowIsNeverReportedComplete: a payload that just fits, and one
byte more. -/
theorem witness_payloads :
    DecInv { decAt .idle 0 0 with decCap := 2 } ∧ [(0x11 : Byte), 0x00].length ≤ (2 : Word).toNat ∧
    (2 : Word).toNat < [(0x11 : Byte), 0x00, 0x22].length :=
  ⟨decInv_of (by decide) (by decide) (by decide) (by decide) (by decide), by decide, by decide⟩

/-! #### The frame codec -/

/-- IllegalWidthIsAConfigError at the widths next to the legal ones, and the legal ones. -/
theorem witness_widths :
    (∀ w ∈ [(0 : BitVec 3), 1, 5, 6, 7], ¬LegalWidth (framing [] w 0 0 0 0)) ∧
    ∀ w ∈ [(2 : BitVec 3), 3, 4], LegalWidth (framing [] w 0 0 0 0) := by
  unfold LegalWidth; decide

/-- The build statements: a frame that ends exactly at RAM_SIZE and one byte more, for the short, the
write-one and the longest normal frame (L2-FRM-4). -/
theorem witness_build_ranges :
    4092 + (wordBytes 2 0 ++ wordBytes 2 (crc16 (wordBytes 2 0))).length ≤ 4096 ∧
    4096 < 4093 + (wordBytes 2 0 ++ wordBytes 2 (crc16 (wordBytes 2 0))).length ∧
    4087 + (frameData 3 [1, 2] ++ wordBytes 3 0).length ≤ 4096 ∧
    4096 < 4088 + (frameData 3 [1, 2] ++ wordBytes 3 0).length ∧
    3068 + (255 + 2) * 4 ≤ 4096 ∧ 4096 < 3069 + (255 + 2) * 4 := by decide +kernel

/-- The verify statements: the range error one byte past the RAM, a pass and a CRC error. -/
theorem witness_verify :
    4096 < 4088 + 3 * 3 ∧ 0x500 + 2 * 2 ≤ 4096 ∧
    crc16 (Memory.bytes shortFrame 0x500 2) = Memory.read shortFrame 0x502 ++
      Memory.read shortFrame 0x503 ∧
    crc16 (Memory.bytes [] 0x500 2) ≠ Memory.read [] 0x502 ++ Memory.read [] 0x503 := by
  decide +kernel

/-- A short frame built at 0x500 (W = 3, with a padding byte in each word). -/
def built : State :=
  (nextOf (exec (Shape.build .short true) (framing [] 3 0 0x500 0x6180 0))).getD State.reset

/-- `built` after the host writes one byte of the frame. -/
def poked (a : Nat) (v : Byte) : State := { built with ram := built.ram.write a v }

/-- BuiltFramesVerify and VerifyDetectsOneFlippedBit: a flip in the data portion (its first byte), in
the last CRC value byte, and in the CRC word's padding byte. -/
theorem witness_built_frames :
    exec (Shape.build .short true) (framing [] 3 0 0x500 0x6180 0) = .next built ∧
      built.code = .ok ∧ SameFrameSetup built built ∧
      SameFrameSetup built (poked 0x500 0x60) ∧
      OneBitFlipped built.arg0.toNat (2 * 3) 0 0 built (poked 0x500 0x60) ∧
      OneBitFlipped built.arg0.toNat (2 * 3) 4 7 built
        (poked 0x504 (built.ramByte 0x504 ^^^ 0x80)) ∧
      OneBitFlipped built.arg0.toNat (2 * 3) 5 7 built (poked 0x505 0x80) ∧
      0 < (2 - 1) * 3 + 2 ∧ 4 < (2 - 1) * 3 + 2 ∧ (2 - 1) * 3 + 2 ≤ 5 ∧ 5 < 2 * 3 := by
  refine ⟨rfl, rfl, ⟨rfl, rfl, rfl, rfl⟩, ⟨rfl, rfl, rfl, rfl⟩, ?_, ?_, ?_, by decide⟩ <;>
    (unfold OneBitFlipped; decide +kernel)

/-- FrmWordReadsTheRawWord: the last word that fits and the next one (L2-FRM-5). -/
theorem witness_frm_word :
    4090 + (1 : Byte).toNat * 3 + 3 ≤ 4096 ∧ 4096 < 4090 + (2 : Byte).toNat * 3 + 3 := by decide

/-- ChannelValueIsSignExtended: a negative word of each width. -/
theorem witness_channel_words :
    chan32 2 [0x80, 0x00] = 0xFFFF8000 ∧ chan32 3 [0x80, 0x00, 0x00] = 0xFF800000 ∧
    chan32 4 [0x80, 0x00, 0x00, 0x01] = 0x80000001 := by decide

/-! #### The host port -/

/-- A block whose host issues the given accesses. -/
def driven (accesses : List Access) : State := { fresh [] with host := accesses }

/-- RegisterWindowFollowsItsMap: offsets 0x00C (the first unlisted), 0x064 (behind the last register)
and 0xFFFC (the window's last). The register clauses hold for every register. -/
theorem witness_register_window :
    (Reg.cfg ≠ .cmd ∧ (driven [.write Reg.cfg.offset 32 0x203]).host
      = .write ((fresh []).params.base + Reg.cfg.offset) 32 0x203 :: []) ∧
    ∀ off ∈ [0x00C, 0x064, 0xFFFC], off < 0x10000 ∧ off % 4 = 0 ∧
      Reg.all.all (fun r => r.offset != off) := by decide

/-- BadAccessIsABusError: a narrow and a misaligned register access up to the window's end, and a wide
RAM access at both ends of its window. -/
theorem witness_bad_access :
    (0x0 < 0x10000 ∧ (16 ≠ 32 ∨ 0x0 % 4 ≠ 0)) ∧ (0xFFFF < 0x10000 ∧ (32 ≠ 32 ∨ 0xFFFF % 4 ≠ 0)) ∧
    (0x10000 ≤ 0x10000 ∧ 0x10000 < 0x20000 ∧ 32 ≠ 8) ∧
    (0x10000 ≤ 0x1FFFF ∧ 0x1FFFF < 0x20000 ∧ 16 ≠ 8) ∧
    (nextOf (step (driven [.read 0xFFFF 32]))).map (fun t => t.resp.status) = some .busError ∧
    (nextOf (step (driven [.write 0x10000 32 1]))).map (fun t => t.resp.status)
      = some .busError := by decide

/-- RamWindowIsByteWide: the RAM's last byte, the first address past it, and a wrong width. -/
theorem witness_ram_window :
    (nextOf (step (driven [.write (0x10000 + 4095) 8 0x1A5]))).map (fun t => t.ramByte 4095)
      = some 0xA5 ∧
    (nextOf (step (driven [.write (0x10000 + 4096) 8 0xA5]))).map (fun t => t.ram) = some [] ∧
    (nextOf (step (driven [.write (0x10000 + 4095) 16 0xA5]))).map (fun t => t.resp.status)
      = some .busError ∧
    (nextOf (step (driven [.read (0x10000 + 4095) 8]))).map (fun t => t.resp.status)
      = some .okay := by decide

/-- ReadsAndRepeatedWritesAreIdempotent. -/
theorem witness_repeated_write :
    4 ≠ (fresh []).params.base ∧
    (driven [.write 4 32 7, .write 4 32 7]).host = .write 4 32 7 :: .write 4 32 7 :: [] ∧
    (driven [.read 4 32]).host = .read 4 32 :: [] := by decide

/-- A host that reads on both sides of the window of a block at BASE = 0x1000. -/
def foreign : State :=
  { driven [.read 0xFFF 32, .read 0x21000 8] with params := { ramSize := 4096, base := 0x1000 } }

/-- SilentOrForeignHostChangesNothing: the last address below BASE and the first above the window. -/
theorem witness_foreign_access :
    (driven []).host = [] ∧ 0xFFF < foreign.params.base ∧
    foreign.params.base + 0x20000 ≤ 0x21000 ∧
    (nextOf (step foreign)).map (fun t => t.resp.status) = some .unclaimed := by decide

/-! #### Whole-machine rules -/

/-- StepKeepsTheInvariant, NoStepStopsUnderTheInvariant and ParametersNeverChange: a state other than
reset that meets the invariant, and its step (an overflow with data in the RAM). -/
theorem witness_invariant :
    ∃ s t, Inv s ∧ step s = .next t ∧ t.code = .errOverflow := by
  refine ⟨{ decAt .block 1 16 with
      ram := [(0x300, 0x11)], host := [issueWord Params.ofExamples 0x31000044] }, _,
    ⟨by decide, encInv_of ?_ ?_ ?_ ?_ ?_, decInv_of ?_ ?_ ?_ ?_ ?_, ⟨?_, ?_⟩, ⟨?_, ?_, ?_, ?_, ?_⟩⟩,
    rfl, rfl⟩ <;> decide

/-- ResetMeetsTheInvariant: the smallest and the largest RAM, each with its last byte listed. -/
theorem witness_power_on :
    ∀ n ∈ [1, 65536], Params.wellFormed { ramSize := n, base := 0 } = true ∧
      Memory.wf [(n - 1, 0xFF)] = true ∧ ∀ c ∈ [((n - 1, 0xFF) : Host.Cell)], c.1 < n := by decide

/-- ErrIsSticky, CodesAreThoseOfTheTable, CommandsWriteNoOperands and OnlyPushAndBuildWriteRam: an
error, a success from a state with ERR set and one from a state without. -/
theorem witness_codes :
    (nextOf (exec .encStart { fresh [] with arg1 := 4097 })).map (fun t => t.code.isError)
      = some true ∧
    (Instr.encStart ≠ .clrErr ∧ Instr.encStart ≠ .softReset ∧ failed.err = true ∧
      (nextOf (exec .encStart failed)).map (fun t => t.code.isError) = some false) ∧
    (nextOf (exec .encStart (fresh []))).map (fun t => (t.code.isError, t.err))
      = some (false, false) ∧
    Instr.encStart.mnemonic ∉ [Mnemonic.decPush, .frmBuildShort, .frmBuildWrite,
      .frmBuildNormal] := by decide

/-- OnlyFrameCommandsReadCfg. -/
theorem witness_cfg_readers :
    Instr.encStart.mnemonic ∈ [Mnemonic.nop, .clrErr, .crcInit, .crcByte, .crcSpan, .encStart,
      .encPull, .decReset, .decPush] ∧
    (Instr.frmWord 0).mnemonic ∉ [Mnemonic.softReset, .frmBuildNormal, .frmVerifyNormal] := by
  decide

/-- FaultNeedsABrokenInvariant: a pull at an address past the RAM, and a push to one; no run reaches
either state. -/
theorem witness_faults :
    exec .encPull { fresh [] with encSt := .data, encBlk := 1, encPtr := 4096, encRem := 1 }
      = .fault (.ramOutOfRange 4096) ∧
    exec (.decPush 0x11) { decAt .block 1 0 with decBase := 4096 }
      = .fault (.ramOutOfRange 4096) := ⟨rfl, rfl⟩

end Sys2Proof.Tests
end

section
/-! PROOF. R86 for every word and state (spec/30_encoding.md): what a word that decodes looks like,
field by field; the row of R85 it therefore matches; and what reporting ERR_ILLEGAL leaves unchanged. -/

namespace Sys2Proof

/-! ### A word that decodes -/

theorem op_of_ofOp {op : Byte} {m : Mnemonic} (h : Mnemonic.ofOp op = some m) : op = m.op := by
  unfold Mnemonic.ofOp at h
  split at h <;> cases h <;> exact BitVec.eq_of_toNat_eq ‹_›

/-- Decoding, inverted: the word has the OP of a mnemonic and sets no bit that R81 does not give that
mnemonic, and the command is the mnemonic's for F[0] and IMM8. -/
theorem decode_eq_ok {w : Word} {i : Instr} (h : decode w = .ok i) :
    ∃ m : Mnemonic, opField w = m.op ∧ flagField w &&& ~~~m.flagMask = 0 ∧ reservedField w = 0 ∧
      immField w &&& ~~~m.immMask = 0 ∧ i = m.instr ((flagField w).getLsbD 0) (immField w) := by
  unfold decode at h
  split at h
  · cases h
  · next m hm =>
    split_ifs at h with hrsv hflag himm
    exact ⟨m, op_of_ofOp hm, not_not.1 hflag, not_not.1 hrsv, not_not.1 himm, (Except.ok.inj h).symm⟩

/-! ### The row of a mnemonic -/

/-- The row of R85 as R81 makes it of the fields: OP is compared whole, and so is each bit of F, RSV
and IMM8 that the command may not set. -/
def Mnemonic.row (m : Mnemonic) : OpcodeRow :=
  { mnemonic := m
    pattern := m.op ++ (0 : Byte) ++ (0 : Byte) ++ (0 : Byte)
    mask := (0xFF : Byte) ++ ~~~m.flagMask ++ (0xFF : Byte) ++ ~~~m.immMask }

theorem Mnemonic.row_mem_opcodeTable (m : Mnemonic) : m.row ∈ opcodeTable := by
  cases m <;> decide

/-- A command word is its four fields (R81). -/
theorem fields_join (w : Word) :
    opField w ++ flagField w ++ reservedField w ++ immField w = w := by
  unfold opField flagField reservedField immField
  apply BitVec.eq_of_getLsbD_eq
  intro k hk
  simp only [BitVec.getLsbD_append, BitVec.getLsbD_extractLsb']
  -- What is left is which of the four bytes bit `k` falls into.
  grind

/-- A word matches the row of the mnemonic whose fields it has. -/
theorem and_row_mask {w : Word} {m : Mnemonic} (hop : opField w = m.op)
    (hflag : flagField w &&& ~~~m.flagMask = 0) (hrsv : reservedField w = 0)
    (himm : immField w &&& ~~~m.immMask = 0) : w &&& m.row.mask = m.row.pattern := by
  have hff : m.op &&& (0xFF : Byte) = m.op := BitVec.and_allOnes
  calc w &&& m.row.mask
      = (opField w ++ flagField w ++ reservedField w ++ immField w) &&&
          ((0xFF : Byte) ++ ~~~m.flagMask ++ (0xFF : Byte) ++ ~~~m.immMask) := by
        rw [fields_join]; rfl
    _ = m.row.pattern := by
        simp only [BitVec.and_append, hop, hflag, hrsv, himm, hff]
        rfl

/-- What decodes matches a row of the opcode map. -/
theorem exists_row_of_decode_eq_ok {w : Word} {i : Instr} (h : decode w = .ok i) :
    ∃ row ∈ opcodeTable, w &&& row.mask = row.pattern := by
  obtain ⟨m, hop, hflag, hrsv, himm, -⟩ := decode_eq_ok h
  exact ⟨m.row, m.row_mem_opcodeTable, and_row_mask hop hflag hrsv himm⟩

theorem decode_eq_error_of_no_row {w : Word}
    (h : ∀ row ∈ opcodeTable, w &&& row.mask ≠ row.pattern) : ∃ e, decode w = .error e := by
  cases hw : decode w with
  | error e => exact ⟨e, rfl⟩
  | ok i =>
    obtain ⟨row, hrow, hmatch⟩ := exists_row_of_decode_eq_ok hw
    exact absurd hmatch (h row hrow)

end Sys2Proof

namespace Sys2Proof.Machine

/-! ### Completing a command writes STATUS alone -/

theorem readReg_complete {s : State} {c : Code} {r : Reg} (hr : r ≠ .status) :
    (s.complete c).readReg r = s.readReg r := by
  cases r with
  | status => exact absurd rfl hr
  | _ => rfl

theorem sameRegsExcept_complete (changed : List Reg) (s : State) (c : Code) :
    SameRegsExcept changed s (s.complete c) :=
  ⟨fun _ hr _ => readReg_complete hr, rfl, rfl, rfl⟩

theorem sameRam_complete (s : State) (c : Code) : SameRam s (s.complete c) := fun _ => rfl

theorem complete_err_of_isError {c : Code} (hc : c.isError = true) (s : State) :
    (s.complete c).err = true := by
  rw [State.complete_err, hc, Bool.or_true]

theorem runWord_of_decode_eq_error {w : Word} {e : Illegal} (h : decode w = .error e) (s : State) :
    runWord w s = .next (s.complete .errIllegal) := by
  simp [runWord, h, State.raise]

/-- Settles O7: a word that decodes would match the row of its mnemonic, so an unmatched word is
rejected, and its run completes with ERR_ILLEGAL. -/
theorem illegalWordOnlyReports : Obligations.IllegalWordOnlyReports := by
  intro w s hno
  obtain ⟨e, he⟩ := decode_eq_error_of_no_row hno
  exact ⟨⟨e, he⟩, s.complete .errIllegal, runWord_of_decode_eq_error he s, s.complete_code _,
    complete_err_of_isError (by decide) s, s.complete_frmValid _, sameRegsExcept_complete [] s _,
    sameRam_complete s _⟩

end Sys2Proof.Machine
end

section
/-! PROOF. The commands of the CRC unit (spec/41_crc.md): the byte step in the words of R100, what a
command that writes CRC_ACC leaves unchanged, and R102 to R104 for every state. -/

namespace Sys2Proof

/-- The immediate fills the low byte of the command word, which the other three fields leave free
(R81). -/
theorem encode_eq_or_imm (i : Instr) :
    encode i = (i.mnemonic.op ++ flagByte i.flag ++ (0x00 : Byte) ++ (0x00 : Byte)) |||
      i.imm.setWidth 32 := by
  unfold encode
  apply BitVec.eq_of_getLsbD_eq
  intro k hk
  simp only [BitVec.getLsbD_or, BitVec.getLsbD_append, BitVec.getLsbD_setWidth]
  -- Below bit 8 only the immediate is set; from bit 8 on it has no bit.
  by_cases h8 : k < 8
  · simp [h8, hk]
  · simp [h8, BitVec.getLsbD_of_ge i.imm k (by omega)]

theorem encode_crcByte (b : Byte) :
    encode (.crcByte b) = 0x11000000#32 ||| b.setWidth 32 := by
  have hrest : Mnemonic.crcByte.op ++ flagByte false ++ (0x00 : Byte) ++ (0x00 : Byte) =
      0x11000000#32 := by decide
  rw [← hrest]
  exact encode_eq_or_imm (.crcByte b)

end Sys2Proof

namespace Sys2Proof.Machine

/-! ### The byte step (R100) -/

/-- "if the top bit is set": the top bit of the accumulator is bit 15. -/
theorem crcRound_eq_ite_bit15 (acc : Half) :
    crcRound acc = if acc.getLsbD 15 then (acc <<< 1) ^^^ 0x1021 else acc <<< 1 := by
  rw [crcRound, BitVec.msb_eq_getLsbD_last, crcPoly]

theorem crcRounds_eq_iterate (n : Nat) (acc : Half) : crcRounds n acc = crcRound^[n] acc := by
  induction n generalizing acc with
  | zero => rfl
  | succ n ih => rw [crcRounds, ih, Function.iterate_succ_apply]

/-- `zext_16(b) << 8` is the byte in bits 15:8 over a zero byte. -/
theorem setWidth_shiftLeft_eight (b : Byte) :
    b.setWidth 16 <<< 8 = b ++ (0x00 : Byte) := by
  apply BitVec.eq_of_getLsbD_eq
  intro k hk
  rw [BitVec.getLsbD_append, BitVec.getLsbD_shiftLeft, BitVec.getLsbD_setWidth]
  by_cases h8 : k < 8
  · simp [h8]
  · simp [h8, hk, show k - 8 < 16 by omega]

theorem crcStep_eq_iterate (acc : Half) (b : Byte) :
    crcStep acc b = crcRound^[8] (acc ^^^ (b ++ (0x00 : Byte))) := by
  rw [crcStep, crcRounds_eq_iterate, setWidth_shiftLeft_eight]

/-! ### A command that writes CRC_ACC alone -/

theorem readReg_with_crcAcc (s : State) (x : Half) {r : Reg} (hr : r ≠ .crcAcc) :
    State.readReg { s with crcAcc := x } r = s.readReg r := by
  cases r with
  | crcAcc => exact absurd rfl hr
  | _ => rfl

/-- A command that puts `x` into CRC_ACC and ends with OK completes, with no other register and no
RAM byte changed. -/
theorem completes_with_crcAcc {i : Instr} {s : State} {x : Half}
    (h : exec i s = State.finish { s with crcAcc := x } .ok) :
    ∃ t, Completes i s .ok [.crcAcc] t ∧ t.crcAcc = x ∧ SameRam s t := by
  have hkeep : SameRegsExcept [.crcAcc] s (State.complete { s with crcAcc := x } .ok) :=
    ⟨fun r hst hcrc => (readReg_complete hst).trans
      (readReg_with_crcAcc s x (List.ne_of_not_mem_cons hcrc)), rfl, rfl, rfl⟩
  exact ⟨_, ⟨h, rfl, rfl, rfl, hkeep⟩, rfl, fun _ => rfl⟩

/-- A command that raises an error and does nothing else changes only CODE and ERR (R210). -/
theorem raisesOnly_of_exec_eq_raise {i : Instr} {s : State} {c : Code} (hc : c.isError = true)
    (h : exec i s = s.raise c) : RaisesOnly i s c :=
  ⟨s.complete c, h, rfl, complete_err_of_isError hc s, rfl, sameRegsExcept_complete [] s c,
    sameRam_complete s c⟩

/-! ### The three commands -/

theorem exec_crcInit (s : State) :
    exec .crcInit s = State.finish { s with crcAcc := 0xFFFF } .ok := rfl

theorem exec_crcByte (b : Byte) (s : State) :
    exec (.crcByte b) s = State.finish { s with crcAcc := crcStep s.crcAcc b } .ok := rfl

/-- CRC_SPAN over a span inside the RAM: the range check passes, and so does every read. -/
theorem exec_crcSpan_of_le {s : State} (i : Bool)
    (h : s.arg0.toNat + s.arg1.toNat ≤ s.params.ramSize) :
    exec (.crcSpan i) s = State.finish
      { s with crcAcc := (s.ram.bytes s.arg0.toNat s.arg1.toNat).foldl crcStep
                 (if i then 0xFFFF else s.crcAcc) } .ok := by
  change execCrcSpan i s = _
  rw [execCrcSpan, State.argAddr, State.argLen, if_pos ((inRam_iff _ _ _).2 h), memReadSpan_ok h]
  rfl

theorem exec_crcSpan_of_lt {s : State} (i : Bool)
    (h : s.params.ramSize < s.arg0.toNat + s.arg1.toNat) :
    exec (.crcSpan i) s = s.raise .errBounds :=
  if_neg fun hin => absurd ((inRam_iff _ _ _).1 hin) (Nat.not_le.2 h)

/-! ### The obligations -/

/-- Settles O16: inside the RAM the span reads as its bytes and the fold is all that is written;
past it the range check raises before anything is written. -/
theorem crcSpanFoldsItsSpan : Obligations.CrcSpanFoldsItsSpan := by
  intro i s
  refine ⟨?encoding, fun hfits => completes_with_crcAcc (exec_crcSpan_of_le i hfits), fun hpast =>
    raisesOnly_of_exec_eq_raise (by decide) (exec_crcSpan_of_lt i hpast)⟩
  case encoding => cases i <;> rfl

/-- Settles O14: CRC_INIT puts the initial value into CRC_ACC and ends with OK. -/
theorem crcInitRestartsTheCrc : Obligations.CrcInitRestartsTheCrc :=
  ⟨rfl, fun s => completes_with_crcAcc (exec_crcInit s)⟩

/-- Settles O15: the command is the byte step, and the byte step's recursion is the iteration that
R100 writes out. -/
theorem crcByteFoldsItsByte : Obligations.CrcByteFoldsItsByte := by
  refine ⟨fun b s => ⟨encode_crcByte b, completes_with_crcAcc (exec_crcByte b s)⟩, ?r100,
    by decide, by decide, by decide⟩
  case r100 =>
    intro acc b round
    have hround : crcRound = round := funext crcRound_eq_ite_bit15
    rw [crcStep_eq_iterate, hround]

end Sys2Proof.Machine
end

section
/-! PROOF. The encoder (spec/42_cobs_encoder.md): the block partition of `cobs_encode` (R120), what a
command that writes only the encoder's registers leaves unchanged, ENC_START (R123) and the four
cases of ENC_PULL (R124, R125). -/

namespace Sys2Proof.Machine

/-! ### The run of a block -/

/-- A block takes in bytes other than 0x00 as far as it has room. -/
theorem cobsRun_append {p : List Byte} (hp : (0x00 : Byte) ∉ p) (k : Nat) (q : List Byte) :
    cobsRun (p.length + k) (p ++ q) = p ++ cobsRun k q := by
  induction p with
  | nil => simp
  | cons b p ih =>
    obtain ⟨hb, hp⟩ := List.ne_and_not_mem_of_not_mem_cons hp
    rw [List.length_cons, Nat.add_right_comm, List.cons_append, cobsRun, if_neg hb.symm, ih hp,
      List.cons_append]

theorem cobsRun_append_of_le {m : Nat} {p : List Byte} (hp : (0x00 : Byte) ∉ p) (hm : p.length ≤ m)
    (q : List Byte) : cobsRun m (p ++ q) = p ++ cobsRun (m - p.length) q := by
  rw [← cobsRun_append hp, Nat.add_sub_cancel' hm]

@[simp] theorem cobsRun_nil (m : Nat) : cobsRun m [] = [] := by cases m <;> rfl

theorem cobsRun_cons_zero (m : Nat) (q : List Byte) : cobsRun m (0x00 :: q) = [] := by
  cases m <;> rfl

/-- R120's three kinds of payload, for blocks of at most `m` bytes: it ends within the block, a 0x00
ends the block, or the block is full. -/
theorem payload_partition (m : Nat) (p : List Byte) :
    (p.length ≤ m ∧ (0x00 : Byte) ∉ p) ∨
    (∃ q rest, q.length < m ∧ (0x00 : Byte) ∉ q ∧ p = q ++ 0x00 :: rest) ∨
    (∃ q b rest, q.length = m ∧ (0x00 : Byte) ∉ q ∧ p = q ++ b :: rest) := by
  induction m generalizing p with
  | zero =>
    cases p with
    | nil => exact .inl ⟨Nat.le_refl 0, List.not_mem_nil⟩
    | cons b rest => exact .inr (.inr ⟨[], b, rest, rfl, List.not_mem_nil, rfl⟩)
  | succ m ih =>
    cases p with
    | nil => exact .inl ⟨Nat.zero_le _, List.not_mem_nil⟩
    | cons c p =>
      by_cases hc : c = 0x00
      · exact .inr (.inl ⟨[], p, Nat.succ_pos m, List.not_mem_nil, by rw [hc]; rfl⟩)
      · have hcons {q : List Byte} (hq : (0x00 : Byte) ∉ q) : (0x00 : Byte) ∉ c :: q :=
          List.not_mem_cons_of_ne_of_not_mem (Ne.symm hc) hq
        obtain ⟨hlen, hp⟩ | ⟨q, rest, hlen, hq, rfl⟩ | ⟨q, b, rest, hlen, hq, rfl⟩ := ih p
        · exact .inl ⟨Nat.succ_le_succ hlen, hcons hp⟩
        · exact .inr (.inl ⟨c :: q, rest, Nat.succ_lt_succ hlen, hcons hq, rfl⟩)
        · exact .inr (.inr ⟨c :: q, b, rest, congrArg (· + 1) hlen, hcons hq, rfl⟩)

/-! ### The blocks (R120) -/

theorem cobsBlocks_last (fuel : Nat) {p : List Byte} (hlen : p.length ≤ 254)
    (hp : (0x00 : Byte) ∉ p) : cobsBlocks fuel p = BitVec.ofNat 8 (p.length + 1) :: p := by
  have hrun : cobsRun cobsMaxBlock p = p := by
    simpa [cobsMaxBlock] using cobsRun_append_of_le hp hlen []
  cases fuel with
  | zero => rw [cobsBlocks, hrun]
  | succ fuel => simp only [cobsBlocks, hrun, List.drop_length]

theorem cobsBlocks_elided (fuel : Nat) {p : List Byte} (rest : List Byte) (hlen : p.length < 254)
    (hp : (0x00 : Byte) ∉ p) :
    cobsBlocks (fuel + 1) (p ++ 0x00 :: rest) =
      BitVec.ofNat 8 (p.length + 1) :: p ++ cobsBlocks fuel rest := by
  have hrun : cobsRun cobsMaxBlock (p ++ 0x00 :: rest) = p := by
    rw [cobsMaxBlock, cobsRun_append_of_le hp hlen.le, cobsRun_cons_zero, List.append_nil]
  simp only [cobsBlocks, hrun, List.drop_left]
  exact if_pos hlen

theorem cobsBlocks_full (fuel : Nat) {p : List Byte} (b : Byte) (rest : List Byte)
    (hlen : p.length = 254) (hp : (0x00 : Byte) ∉ p) :
    cobsBlocks (fuel + 1) (p ++ b :: rest) = 0xFF :: p ++ cobsBlocks fuel (b :: rest) := by
  have hrun : cobsRun cobsMaxBlock (p ++ b :: rest) = p := by
    have h := cobsRun_append hp 0 (b :: rest)
    rwa [Nat.add_zero, hlen, cobsRun, List.append_nil] at h
  simp only [cobsBlocks, hrun, List.drop_left]
  rw [if_neg (hlen ▸ Nat.lt_irrefl 254), hlen]
  rfl

/-- The fuel does not show, once there is as much of it as payload: every block but the last consumes
a byte. -/
theorem cobsBlocks_eq_of_length_le {p : List Byte} {f g : Nat} (hf : p.length ≤ f)
    (hg : p.length ≤ g) : cobsBlocks f p = cobsBlocks g p := by
  induction f generalizing g p with
  | zero =>
    obtain rfl := List.length_eq_zero_iff.1 (Nat.le_zero.1 hf)
    rw [cobsBlocks_last 0 (Nat.zero_le _) List.not_mem_nil,
      cobsBlocks_last g (Nat.zero_le _) List.not_mem_nil]
  | succ f ih =>
    obtain ⟨hlen, hp⟩ | ⟨q, rest, hlen, hq, rfl⟩ | ⟨q, b, rest, hlen, hq, rfl⟩ :=
      payload_partition 254 p
    · rw [cobsBlocks_last _ hlen hp, cobsBlocks_last _ hlen hp]
    all_goals
      simp only [List.length_append, List.length_cons] at hf hg
      obtain ⟨g, rfl⟩ : ∃ k, g = k + 1 := ⟨g - 1, by omega⟩
    · rw [cobsBlocks_elided f rest hlen hq, cobsBlocks_elided g rest hlen hq,
        ih (p := rest) (g := g) (by omega) (by omega)]
    · have hfuel : (b :: rest).length ≤ f ∧ (b :: rest).length ≤ g := by
        simp only [List.length_cons]; omega
      rw [cobsBlocks_full f b rest hlen hq, cobsBlocks_full g b rest hlen hq, ih hfuel.1 hfuel.2]

/-- The encoding from any sufficient fuel. -/
theorem cobsEncode_eq {p : List Byte} {fuel : Nat} (h : p.length ≤ fuel) :
    cobsEncode p = cobsBlocks fuel p ++ [0x00] := by
  rw [cobsEncode, cobsBlocks_eq_of_length_le (Nat.le_refl _) h]

/-- Settles O23: each case is one block of the partition (`payload_partition` says that there is no
other case), in front of the encoding of what the block does not consume. -/
theorem cobsEncodeFollowsItsBlocks : Obligations.CobsEncodeFollowsItsBlocks := by
  refine ⟨fun p hlen hp => ?last, fun p rest hlen hp => ?elided, fun p b rest hlen hp => ?full⟩
  case last => rw [cobsEncode, cobsBlocks_last _ hlen hp]
  case elided =>
    rw [cobsEncode_eq (p := p ++ 0x00 :: rest) (fuel := p.length + rest.length + 1)
        (by simp [Nat.add_assoc]),
      cobsEncode_eq (p := rest) (fuel := p.length + rest.length) (Nat.le_add_left _ _),
      cobsBlocks_elided _ rest hlen hp, List.append_assoc]
  case full =>
    rw [cobsEncode_eq (p := p ++ b :: rest) (fuel := p.length + rest.length + 1)
        (by simp [Nat.add_assoc]),
      cobsEncode_eq (p := b :: rest) (fuel := p.length + rest.length)
        (by simp only [List.length_cons]; omega),
      cobsBlocks_full _ b rest hlen hp, List.append_assoc]

/-! ### A command that writes the encoder's registers alone -/

/-- The registers of the encoder (R28 to R30). -/
def encoderRegs : List Reg := [.encState, .encPtr, .encRem, .encOut]

/-- `u` is `s` but for the fields of the encoder's registers. -/
def OnlyEncoderChanged (s u : State) : Prop :=
  u = { s with encSt := u.encSt, encBlk := u.encBlk, encZero := u.encZero, encPtr := u.encPtr,
               encRem := u.encRem, encOut := u.encOut }

section
variable {s u v : State}

theorem OnlyEncoderChanged.trans (hsu : OnlyEncoderChanged s u) (huv : OnlyEncoderChanged u v) :
    OnlyEncoderChanged s v := by
  rw [OnlyEncoderChanged, huv, hsu]

theorem OnlyEncoderChanged.readReg_eq (h : OnlyEncoderChanged s u) {r : Reg}
    (hr : r ∉ encoderRegs) : u.readReg r = s.readReg r := by
  rw [h]
  cases r with
  | encState | encPtr | encRem | encOut => exact absurd (by decide) hr
  | _ => rfl

theorem OnlyEncoderChanged.sameRam (h : OnlyEncoderChanged s u) (c : Code) :
    SameRam s (u.complete c) := by
  rw [h]
  exact fun _ => rfl

/-- Of the registers, only those of the encoder that read differently need be listed. -/
theorem OnlyEncoderChanged.sameRegsExcept (h : OnlyEncoderChanged s u) {changed : List Reg}
    (hkeep : ∀ r ∈ encoderRegs, r ∉ changed → u.readReg r = s.readReg r) (c : Code) :
    SameRegsExcept changed s (u.complete c) := by
  refine ⟨fun r hst hr => (readReg_complete hst).trans ?_, ?_⟩
  · by_cases henc : r ∈ encoderRegs
    · exact hkeep r henc hr
    · exact h.readReg_eq henc
  · rw [h]
    exact ⟨rfl, rfl, rfl⟩

theorem OnlyEncoderChanged.completes (h : OnlyEncoderChanged s u) {i : Instr} {c : Code}
    {changed : List Reg} (hexec : exec i s = u.finish c)
    (hkeep : ∀ r ∈ encoderRegs, r ∉ changed → u.readReg r = s.readReg r) :
    Completes i s c changed (u.complete c) := by
  refine ⟨hexec, rfl, ?_, ?_, h.sameRegsExcept hkeep c⟩ <;> rw [h] <;> rfl

end

/-! ### ENC_START -/

/-- The cursor ENC_START loads. -/
def State.encStarted (s : State) : State :=
  { s with encPtr := s.arg0, encRem := s.arg1, encSt := .code, encBlk := 0, encZero := false }

theorem exec_encStart_of_le {s : State} (h : s.arg0.toNat + s.arg1.toNat ≤ s.params.ramSize) :
    exec .encStart s = s.encStarted.finish .ok :=
  if_pos ((inRam_iff _ _ _).2 h)

theorem exec_encStart_of_lt {s : State} (h : s.params.ramSize < s.arg0.toNat + s.arg1.toNat) :
    exec .encStart s = s.raise .errBounds :=
  if_neg fun hin => absurd ((inRam_iff _ _ _).1 hin) (Nat.not_le.2 h)

/-- ENC_START does not write ENC_OUT. -/
theorem readReg_encStarted {s : State} {r : Reg} (henc : r ∈ encoderRegs)
    (hr : r ∉ [Reg.encState, .encPtr, .encRem]) : s.encStarted.readReg r = s.readReg r := by
  obtain rfl : r = .encOut := by simp_all [encoderRegs]
  rfl

/-- Settles O21: the range check decides between loading the cursor and raising the error. -/
theorem encStartLoadsTheCursor : Obligations.EncStartLoadsTheCursor := by
  refine ⟨rfl, fun s => ⟨fun hfits => ?loads, fun hpast =>
    raisesOnly_of_exec_eq_raise (by decide) (exec_encStart_of_lt hpast)⟩⟩
  case loads =>
    have honly : OnlyEncoderChanged s s.encStarted := rfl
    exact ⟨_, honly.completes (exec_encStart_of_le hfits) fun _ => readReg_encStarted,
      rfl, rfl, rfl, rfl, rfl, honly.sameRam _⟩

/-! ### The cursor -/

theorem ramSize_le_of_wellFormed {p : Params} (h : p.wellFormed = true) : p.ramSize ≤ 65536 := by
  simp only [Params.wellFormed, Params.ramFitsWindow, Bool.and_eq_true, decide_eq_true_eq] at h
  exact h.2

/-- Consuming one byte of what remains does not wrap the cursor. -/
theorem cursor_advance {p r : Word} (hle : p.toNat + r.toNat ≤ 65536) (hr : 1 ≤ r.toNat) :
    (p + 1).toNat = p.toNat + 1 ∧ (r - 1).toNat + 1 = r.toNat := by
  constructor <;> bv_omega

/-- The answer of the code scan is unique. -/
theorem ScanFinds.unique {s : State} {a m l l' : Nat} {z z' : Bool} (h : ScanFinds s a m l z)
    (h' : ScanFinds s a m l' z') : l = l' ∧ z = z' := by
  obtain ⟨hne, htrue, hfalse⟩ := h
  obtain ⟨hne', htrue', hfalse'⟩ := h'
  cases z <;> cases z'
  case false.false => exact ⟨(hfalse rfl).trans (hfalse' rfl).symm, rfl⟩
  case false.true =>
    obtain ⟨hlt, hzero⟩ := htrue' rfl
    exact absurd hzero (hne l' (hfalse rfl ▸ hlt))
  case true.false =>
    obtain ⟨hlt, hzero⟩ := htrue rfl
    exact absurd hzero (hne' l (hfalse' rfl ▸ hlt))
  case true.true =>
    have hge := Nat.not_lt.1 fun hlt => hne l' hlt (htrue' rfl).2
    have hle := Nat.not_lt.1 fun hlt => hne' l hlt (htrue rfl).2
    exact ⟨Nat.le_antisymm hge hle, rfl⟩

theorem ScanFinds.le {s : State} {a m l : Nat} {z : Bool} (h : ScanFinds s a m l z) : l ≤ m := by
  obtain ⟨-, htrue, hfalse⟩ := h
  cases z with
  | false => exact (hfalse rfl).le
  | true => exact (htrue rfl).1.le

/-! ### after_block (R125) -/

theorem afterBlock_elided {s : State} (hz : s.encZero = true) :
    s.afterBlock = { s with encBlk := 0, encPtr := s.encPtr + 1, encRem := s.encRem - 1,
                            encZero := false, encSt := .code } := if_pos hz

theorem afterBlock_of_not_zero {s : State} (hz : s.encZero = false) :
    s.afterBlock =
      { s with encBlk := 0, encSt := if s.encRem.toNat = 0 then .term else .code } := by
  obtain ⟨hz', -⟩ | ⟨-, hr, h⟩ | ⟨-, hr, h⟩ := afterBlock_cases s
  · exact absurd hz (by simp [hz'])
  · rw [h, hr]; rfl
  · have hr' : s.encRem.toNat ≠ 0 := fun hn => hr (BitVec.eq_of_toNat_eq hn)
    rw [h, if_neg hr']

@[simp] theorem afterBlock_encBlk (s : State) : s.afterBlock.encBlk = 0 := by
  obtain ⟨-, h⟩ | ⟨-, -, h⟩ | ⟨-, -, h⟩ := afterBlock_cases s <;> rw [h]

@[simp] theorem afterBlock_encZero (s : State) : s.afterBlock.encZero = false := by
  obtain ⟨-, h⟩ | ⟨hz, -, h⟩ | ⟨hz, -, h⟩ := afterBlock_cases s <;> rw [h]
  all_goals exact hz

theorem OnlyEncoderChanged.afterBlock {s u : State} (h : OnlyEncoderChanged s u) :
    OnlyEncoderChanged s u.afterBlock := by
  refine h.trans ?_
  obtain ⟨-, h⟩ | ⟨-, -, h⟩ | ⟨-, -, h⟩ := afterBlock_cases u <;> rw [h] <;> rfl

/-! ### ENC_PULL in CODE -/

theorem onlyEncoderChanged_pullCode (s : State) (l : Nat) (z : Bool) :
    OnlyEncoderChanged s (s.pullCode l z) := by
  by_cases hl : l = 0
  · rw [hl, pullCode_empty]
    exact OnlyEncoderChanged.afterBlock rfl
  · rw [pullCode_block z hl]
    rfl

theorem pullCode_encOut (s : State) (l : Nat) (z : Bool) :
    (s.pullCode l z).encOut = BitVec.ofNat 8 (l + 1) := by
  by_cases hl : l = 0
  · rw [hl, pullCode_empty, State.afterBlock_encOut]
    rfl
  · rw [pullCode_block z hl]

/-- What a pull of the code byte leaves, under the cursor invariant of R31. -/
theorem pullCode_follows {s : State} {l : Nat} {z : Bool}
    (hcur : s.encPtr.toNat + s.encRem.toNat ≤ 65536)
    (hscan : ScanFinds s s.encPtr.toNat (min 254 s.encRem.toNat) l z) :
    let u := s.pullCode l z
    u.encOut.toNat = l + 1 ∧
    (0 < l → u.encSt = .data ∧ u.encBlk.toNat = l ∧ u.encZero = z ∧ u.encPtr = s.encPtr ∧
      u.encRem = s.encRem) ∧
    (l = 0 → z = true → u.encSt = .code ∧ u.encBlk = 0 ∧ u.encZero = false ∧
      u.encPtr.toNat = s.encPtr.toNat + 1 ∧ u.encRem.toNat + 1 = s.encRem.toNat) ∧
    (l = 0 → z = false → u.encSt = .term ∧ u.encBlk = 0 ∧ u.encZero = false ∧
      u.encPtr = s.encPtr ∧ u.encRem = s.encRem) := by
  have hle : l ≤ min 254 s.encRem.toNat := hscan.le
  obtain ⟨-, htrue, hfalse⟩ := hscan
  refine ⟨?out, fun hl => ?block, fun hl hz => ?zero, fun hl hz => ?exhausted⟩
  case out =>
    rw [pullCode_encOut, BitVec.toNat_ofNat]
    omega
  case block =>
    rw [pullCode_block z (Nat.ne_of_gt hl)]
    refine ⟨rfl, ?_, rfl, rfl, rfl⟩
    rw [BitVec.toNat_ofNat]
    omega
  case zero =>
    have hrem : 1 ≤ s.encRem.toNat := by have := (htrue hz).1; omega
    rw [hl, hz, pullCode_empty, afterBlock_elided rfl]
    exact ⟨rfl, rfl, rfl, cursor_advance hcur hrem⟩
  case exhausted =>
    have hrem : s.encRem.toNat = 0 := by have := hfalse hz; omega
    rw [hl, hz, pullCode_empty, afterBlock_of_not_zero rfl]
    exact ⟨if_pos hrem, rfl, rfl, rfl, rfl⟩

/-! ### ENC_PULL in DATA -/

theorem onlyEncoderChanged_pullData (s : State) (b : Byte) :
    OnlyEncoderChanged s (s.pullData b) := by
  by_cases hblk : s.encBlk - 1 = 0
  · rw [pullData_last b hblk]
    exact OnlyEncoderChanged.afterBlock rfl
  · rw [pullData_inside b hblk]
    rfl

theorem pullData_encOut (s : State) (b : Byte) : (s.pullData b).encOut = b := by
  by_cases hblk : s.encBlk - 1 = 0
  · rw [pullData_last b hblk, State.afterBlock_encOut]
  · rw [pullData_inside b hblk]

/-- What a pull of a data byte leaves, under the invariants of R31. -/
theorem pullData_follows {s : State} (b : Byte) (hinv : EncInv s) (hst : s.encSt = .data)
    (hcur : s.encPtr.toNat + s.encRem.toNat ≤ 65536) :
    let u := s.pullData b
    (1 < s.encBlk.toNat → u.encSt = .data ∧ u.encBlk.toNat + 1 = s.encBlk.toNat ∧
      u.encZero = s.encZero ∧ u.encPtr.toNat = s.encPtr.toNat + 1 ∧
      u.encRem.toNat + 1 = s.encRem.toNat) ∧
    (s.encBlk.toNat = 1 → u.encBlk = 0 ∧ u.encZero = false ∧
      (s.encZero = true → u.encSt = .code ∧ u.encPtr.toNat = s.encPtr.toNat + 2 ∧
        u.encRem.toNat + 2 = s.encRem.toNat) ∧
      (s.encZero = false → u.encSt = (if s.encRem.toNat = 1 then .term else .code) ∧
        u.encPtr.toNat = s.encPtr.toNat + 1 ∧ u.encRem.toNat + 1 = s.encRem.toNat)) := by
  obtain ⟨hblk1, -, hblkRem⟩ := hinv.dataBlock hst
  obtain ⟨hptr, hrem⟩ := cursor_advance hcur (hblk1.trans hblkRem)
  refine ⟨fun hmore => ?inside, fun hone => ?last⟩
  case inside =>
    rw [pullData_inside b (by bv_omega)]
    exact ⟨hst, by bv_omega, rfl, hptr, hrem⟩
  case last =>
    rw [pullData_last b (by bv_omega)]
    refine ⟨afterBlock_encBlk _, afterBlock_encZero _, fun hz => ?elided, fun hz => ?plain⟩
    case elided =>
      -- Behind the block's last byte, the elided zero is consumed too.
      obtain ⟨-, hahead⟩ := hinv.zeroAhead hz
      obtain ⟨hptr2, hrem2⟩ := cursor_advance (p := s.encPtr + 1) (r := s.encRem - 1) (by omega)
        (by omega)
      rw [afterBlock_elided (by exact hz)]
      exact ⟨rfl, by simp only [hptr2, hptr], by simp only; omega⟩
    case plain =>
      rw [afterBlock_of_not_zero (by exact hz)]
      refine ⟨?_, hptr, hrem⟩
      simp only [show (s.encRem - 1).toNat = 0 ↔ s.encRem.toNat = 1 by omega]

/-! ### ENC_PULL -/

theorem exec_encPull_done {s : State} (h : s.encSt = .done) :
    exec .encPull s = s.finish .encEnd := by
  change execEncPull s = _
  rw [execEncPull, h]

theorem exec_encPull_term {s : State} (h : s.encSt = .term) :
    exec .encPull s = State.finish { s with encOut := 0x00, encSt := .done } .encByte := by
  change execEncPull s = _
  rw [execEncPull, h]

theorem exec_encPull_code {s : State} {l : Nat} {z : Bool} (h : s.encSt = .code)
    (hscan : s.scanZero s.encPtr.toNat (min 254 s.encRem.toNat) = .ok (l, z)) :
    exec .encPull s = (s.pullCode l z).finish .encByte := by
  change execEncPull s = _
  rw [execEncPull, h]
  simp only [cobsMaxBlock, hscan, orFault_ok]

theorem exec_encPull_data {s : State} (h : s.encSt = .data)
    (hlt : s.encPtr.toNat < s.params.ramSize) :
    exec .encPull s = (s.pullData (s.ramByte s.encPtr.toNat)).finish .encByte := by
  change execEncPull s = _
  rw [execEncPull, h]
  simp only [memRead_ok hlt, orFault_ok]

/-- TERM writes neither ENC_PTR nor ENC_REM. -/
theorem readReg_encTerm {s : State} {r : Reg} (henc : r ∈ encoderRegs)
    (hr : r ∉ [Reg.encState, .encOut]) :
    State.readReg { s with encOut := 0x00, encSt := .done } r = s.readReg r := by
  obtain rfl | rfl : r = .encPtr ∨ r = .encRem := by simp_all [encoderRegs]
  all_goals rfl

/-- Settles O22: one case for each value of ENC_STATE.ST; the invariants of R31 keep the scan and the
data read inside the RAM. -/
theorem encPullFollowsTheCursor : Obligations.EncPullFollowsTheCursor := by
  refine ⟨rfl, fun s hparams hinv => ?_⟩
  have hcur : s.encPtr.toNat + s.encRem.toNat ≤ 65536 :=
    hinv.cursorInRam.trans (ramSize_le_of_wellFormed hparams)
  have hlisted {u : State} : ∀ r ∈ encoderRegs, r ∉ encoderRegs → u.readReg r = s.readReg r :=
    fun _ hr hn => absurd hr hn
  cases hst : s.encSt with
  | done =>
    have honly : OnlyEncoderChanged s s := rfl
    exact ⟨_, honly.completes (exec_encPull_done hst) hlisted, honly.sameRam _,
      fun _ => sameRegsExcept_complete [] s _, nofun, nofun, nofun⟩
  | term =>
    have honly : OnlyEncoderChanged s { s with encOut := 0x00, encSt := .done } := rfl
    obtain ⟨hblk, hzero⟩ := hinv.noBlock (by rw [hst]; decide)
    exact ⟨_, honly.completes (exec_encPull_term hst) hlisted, honly.sameRam _, nofun,
      fun _ => ⟨honly.sameRegsExcept (fun _ => readReg_encTerm) _, rfl, rfl, hblk, hzero⟩,
      nofun, nofun⟩
  | code =>
    have hrange : s.encPtr.toNat + min 254 s.encRem.toNat ≤ s.params.ramSize := by
      have := hinv.cursorInRam; omega
    obtain ⟨l, z, hscan, hfinds⟩ := scanZero_ok hrange
    have honly := onlyEncoderChanged_pullCode s l z
    refine ⟨_, honly.completes (exec_encPull_code hst hscan) hlisted, honly.sameRam _, nofun, nofun,
      fun _ l' z' hfinds' => ?_, nofun⟩
    obtain ⟨rfl, rfl⟩ := hfinds.unique hfinds'
    exact pullCode_follows hcur hfinds
  | data =>
    have hrange : s.encPtr.toNat < s.params.ramSize := by
      have := hinv.cursorInRam; have := hinv.dataBlock hst; omega
    have honly := onlyEncoderChanged_pullData s (s.ramByte s.encPtr.toNat)
    exact ⟨_, honly.completes (exec_encPull_data hst hrange) hlisted, honly.sameRam _, nofun, nofun,
      nofun, fun _ => ⟨pullData_encOut _ _, pullData_follows _ hinv hst hcur⟩⟩

end Sys2Proof.Machine
end

section
/-! PROOF. The decoder (spec/43_cobs_decoder.md): DEC_RESET (R142), what a command that writes only
DEC_STATE, DEC_LEN and the RAM leaves unchanged, the output action emit (R141), and the rows of the
transition table of DEC_PUSH (R140). -/

namespace Sys2Proof

theorem encode_decPush (b : Byte) :
    encode (.decPush b) = 0x31000000#32 ||| b.setWidth 32 := by
  have hrest : Mnemonic.decPush.op ++ flagByte false ++ (0x00 : Byte) ++ (0x00 : Byte) =
      0x31000000#32 := by decide
  rw [← hrest]
  exact encode_eq_or_imm (.decPush b)

end Sys2Proof

namespace Sys2Proof.Machine

/-! ### A command that ends with a code -/

theorem SameRegsExcept.complete {changed : List Reg} {s u : State} (h : SameRegsExcept changed s u)
    (c : Code) : SameRegsExcept changed s (u.complete c) := by
  obtain ⟨hregs, hown⟩ := h
  exact ⟨fun r hst hr => (readReg_complete hst).trans (hregs r hst hr), hown⟩

/-- What is left to show of a command that ends in `u` with the code `c`: `u` differs from `s` in no
status bit and in no register but those listed. -/
theorem completes_of_exec_eq_finish {i : Instr} {s u : State} {c : Code} {changed : List Reg}
    (hexec : exec i s = u.finish c) (herr : u.err = s.err) (hvalid : u.frmValid = s.frmValid)
    (hregs : SameRegsExcept changed s u) : Completes i s c changed (u.complete c) :=
  ⟨hexec, rfl, by rw [State.complete_err, herr], hvalid, hregs.complete c⟩

/-! ### DEC_RESET (R142) -/

/-- The destination DEC_RESET sets, with the decoder in IDLE. -/
def State.decDestSet (s : State) : State :=
  { s with decBase := s.arg0, decCap := s.arg1, decSt := .idle, decCnt := 0, decOvf := false,
           decLen := 0 }

theorem exec_decReset_of_le {s : State} (h : s.arg0.toNat + s.arg1.toNat ≤ s.params.ramSize) :
    exec .decReset s = s.decDestSet.finish .ok :=
  if_pos ((inRam_iff _ _ _).2 h)

theorem exec_decReset_of_lt {s : State} (h : s.params.ramSize < s.arg0.toNat + s.arg1.toNat) :
    exec .decReset s = s.raise .errBounds :=
  if_neg fun hin => absurd ((inRam_iff _ _ _).1 hin) (Nat.not_le.2 h)

theorem sameRegsExcept_decDestSet (s : State) :
    SameRegsExcept [.decState, .decBase, .decCap, .decLen] s s.decDestSet := by
  refine ⟨fun r _ hr => ?_, rfl, rfl, rfl⟩
  cases r with
  | decState | decBase | decCap | decLen => exact absurd (by decide) hr
  | _ => rfl

/-- Settles O27: the range check decides between setting the destination and raising the error. -/
theorem decResetSetsTheDestination : Obligations.DecResetSetsTheDestination := by
  refine ⟨rfl, fun s => ⟨fun hfits => ?sets, fun hpast =>
    raisesOnly_of_exec_eq_raise (by decide) (exec_decReset_of_lt hpast)⟩⟩
  case sets =>
    exact ⟨_, completes_of_exec_eq_finish (exec_decReset_of_le hfits) rfl rfl
      (sameRegsExcept_decDestSet s), rfl, rfl, rfl, rfl, rfl, rfl, fun _ => rfl⟩

/-! ### A command that writes DEC_STATE, DEC_LEN and the RAM alone -/

/-- `u` is `s` but for the fields of DEC_STATE and DEC_LEN and for the RAM. -/
def OnlyDecodingChanged (s u : State) : Prop :=
  u = { s with decSt := u.decSt, decCnt := u.decCnt, decOvf := u.decOvf, decLen := u.decLen,
               ram := u.ram }

theorem OnlyDecodingChanged.trans {s u v : State} (hsu : OnlyDecodingChanged s u)
    (huv : OnlyDecodingChanged u v) : OnlyDecodingChanged s v := by
  rw [OnlyDecodingChanged, huv, hsu]

theorem OnlyDecodingChanged.sameRegsExcept {s u : State} (h : OnlyDecodingChanged s u) :
    SameRegsExcept [.decState, .decLen] s u := by
  rw [h]
  refine ⟨fun r _ hr => ?_, rfl, rfl, rfl⟩
  cases r with
  | decState | decLen => exact absurd (by decide) hr
  | _ => rfl

theorem OnlyDecodingChanged.completes {s u : State} (h : OnlyDecodingChanged s u) {i : Instr}
    {c : Code} (hexec : exec i s = u.finish c) :
    Completes i s c [.decState, .decLen] (u.complete c) :=
  completes_of_exec_eq_finish hexec (by rw [h]) (by rw [h]) h.sameRegsExcept

/-! ### Entering a block (R140) -/

theorem onlyDecodingChanged_enterBlock (s : State) (b : Byte) :
    OnlyDecodingChanged s (s.enterBlock b) := by
  unfold State.enterBlock
  split <;> rfl

/-- No code byte is 0x00, so the count of a short block does not wrap. -/
theorem entersBlock_enterBlock (s : State) {b : Byte} (hb : b ≠ 0x00) (c : Code) :
    EntersBlock ((s.enterBlock b).complete c) b := by
  unfold State.enterBlock
  refine ⟨fun hff => ?full, fun hff => ?short⟩
  case full =>
    rw [if_pos hff]
    exact ⟨rfl, rfl⟩
  case short =>
    rw [if_neg hff]
    exact ⟨rfl, by simp only [State.complete_decCnt]; bv_omega⟩

/-! ### The output action emit (R141) -/

/-- Emitted speaks of CODE, DEC_LEN, OVF and the RAM alone, so what DEC_PUSH writes after emit does
not touch it. -/
theorem Emitted.congr {s t t' : State} {v : Byte} (h : Emitted s t v) (hcode : t'.code = t.code)
    (hlen : t'.decLen = t.decLen) (hovf : t'.decOvf = t.decOvf) (hram : t'.ram = t.ram) :
    Emitted s t' v := by
  simpa only [Emitted, SameRamOutside, SameRam, State.ramByte, hcode, hlen, hovf, hram] using h

/-- Under R35 emit answers a state, where it has written or dropped the byte; ST it keeps. -/
theorem emit_follows {s : State} (v : Byte) (hinv : DecInv s) :
    ∃ u c, s.emit v = .ok (u, c) ∧ OnlyDecodingChanged s u ∧ u.decSt = s.decSt ∧
      Emitted s (u.complete c) v := by
  obtain ⟨⟨u, c⟩, hemit⟩ := emit_ok v hinv.destInRam
  refine ⟨u, c, hemit, ?_⟩
  obtain ⟨hovf, hlt, rfl, -, rfl⟩ | ⟨hfull, rfl, rfl⟩ := emit_cases hemit
  case inl =>
    have hroom : s.decLen.toNat < s.decCap.toNat := hlt
    refine ⟨rfl, rfl, fun _ => ⟨rfl, ?count, hovf, ?byte, fun x hx => ?others⟩,
      fun hno => absurd ⟨hovf, hroom⟩ hno⟩
    case count =>
      -- DEC_LEN is below the 32-bit DEC_CAP, so counting the byte does not wrap it.
      simp only [State.complete_decLen]
      bv_omega
    case byte => simp [State.ramByte]
    case others =>
      have hne : x ≠ s.decBase.toNat + s.decLen.toNat := by omega
      simp [State.ramByte, hne]
  case inr =>
    exact ⟨rfl, rfl, fun hroom => absurd hroom hfull, fun _ => ⟨rfl, rfl, rfl, fun _ => rfl⟩⟩

/-! ### The row of a state and a byte (R140) -/

theorem exec_decPush_stray {s : State} (hst : s.decSt = .idle) :
    exec (.decPush 0x00) s = s.finish .ok := by
  change execDecPush 0x00 s = _
  simp only [execDecPush, hst, if_true]

theorem exec_decPush_frameStart {b : Byte} {s : State} (hst : s.decSt = .idle) (hb : b ≠ 0x00) :
    exec (.decPush b) s = s.frameStart b := by
  change execDecPush b s = _
  simp only [execDecPush, hst, if_neg hb]

theorem exec_decPush_frameEnd {s : State} (hst : s.decSt ≠ .idle) (hcnt : s.decCnt = 0) :
    exec (.decPush 0x00) s = s.frameEnd := by
  change execDecPush 0x00 s = _
  cases h : s.decSt with
  | idle => exact absurd h hst
  | block | pblock => simp only [execDecPush, h, hcnt, if_true]

theorem exec_decPush_afterShort {b : Byte} {s : State} (hst : s.decSt = .block)
    (hcnt : s.decCnt = 0) (hb : b ≠ 0x00) : exec (.decPush b) s = s.afterShort b := by
  change execDecPush b s = _
  simp only [execDecPush, hst, hcnt, if_true, if_neg hb]

theorem exec_decPush_afterFull {b : Byte} {s : State} (hst : s.decSt = .pblock)
    (hcnt : s.decCnt = 0) (hb : b ≠ 0x00) : exec (.decPush b) s = s.afterFull b := by
  change execDecPush b s = _
  simp only [execDecPush, hst, hcnt, if_true, if_neg hb]

theorem exec_decPush_malformed {s : State} (hst : s.decSt ≠ .idle) (hcnt : s.decCnt ≠ 0) :
    exec (.decPush 0x00) s = s.malformed := by
  change execDecPush 0x00 s = _
  cases h : s.decSt with
  | idle => exact absurd h hst
  | block | pblock => simp only [execDecPush, h, if_neg hcnt, if_true]

theorem exec_decPush_literal {b : Byte} {s : State} (hst : s.decSt ≠ .idle) (hcnt : s.decCnt ≠ 0)
    (hb : b ≠ 0x00) : exec (.decPush b) s = s.literal b := by
  change execDecPush b s = _
  cases h : s.decSt with
  | idle => exact absurd h hst
  | block | pblock => simp only [execDecPush, h, if_neg hcnt, if_neg hb]

/-! ### What each row does (R144 to R149) -/

/-- DEC_PUSH b completes from `s` in a state of which `P` holds, and writes no register but STATUS,
DEC_STATE and DEC_LEN. -/
def DecPushReaches (b : Byte) (s : State) (P : State → Prop) : Prop :=
  ∃ t, Completes (.decPush b) s t.code [.decState, .decLen] t ∧ P t

theorem decPushReaches_of_exec {s u : State} {b : Byte} {c : Code} {P : State → Prop}
    (hexec : exec (.decPush b) s = u.finish c) (honly : OnlyDecodingChanged s u)
    (hP : P (u.complete c)) : DecPushReaches b s P :=
  ⟨_, honly.completes hexec, hP⟩

theorem DecPushReaches.imp {b : Byte} {s : State} {P Q : State → Prop} (h : DecPushReaches b s P)
    (himp : ∀ t, P t → Q t) : DecPushReaches b s Q := by
  obtain ⟨t, hcompletes, hP⟩ := h
  exact ⟨t, hcompletes, himp t hP⟩

theorem decPush_stray {s : State} (hst : s.decSt = .idle) :
    DecPushReaches 0x00 s fun t => t.code = .ok ∧ SameRegsExcept [] s t ∧ SameRam s t :=
  decPushReaches_of_exec (exec_decPush_stray hst) rfl
    ⟨rfl, sameRegsExcept_complete [] s _, sameRam_complete s _⟩

theorem decPush_frameStart {b : Byte} {s : State} (hst : s.decSt = .idle) (hb : b ≠ 0x00) :
    DecPushReaches b s fun t => t.code = .decStart ∧ t.decLen = 0 ∧ t.decOvf = false ∧
      EntersBlock t b ∧ SameRam s t := by
  have hcleared : OnlyDecodingChanged s { s with decLen := 0, decOvf := false } := rfl
  refine decPushReaches_of_exec (exec_decPush_frameStart hst hb)
    (hcleared.trans (onlyDecodingChanged_enterBlock _ b))
    ⟨rfl, ?_, ?_, entersBlock_enterBlock _ hb _, fun x => ?_⟩
  all_goals simp [State.ramByte]

/-- R145: OVF decides between the complete frame and the overflow end. -/
theorem decPush_frameEnd {s : State} (hst : s.decSt ≠ .idle) (hcnt : s.decCnt = 0) :
    DecPushReaches 0x00 s fun t => t.decSt = .idle ∧ t.decCnt = 0 ∧ t.decOvf = false ∧
      SameRam s t ∧ (s.decOvf = false → t.code = .decComplete ∧ t.decLen = s.decLen) ∧
      (s.decOvf = true → t.code = .errOvfEnd ∧ t.decLen = 0) := by
  have hexec := exec_decPush_frameEnd hst hcnt
  cases hovf : s.decOvf with
  | false =>
    rw [State.frameEnd, hovf] at hexec
    exact decPushReaches_of_exec hexec rfl
      ⟨rfl, rfl, rfl, fun _ => rfl, fun _ => ⟨rfl, rfl⟩, nofun⟩
  | true =>
    rw [State.frameEnd, hovf] at hexec
    exact decPushReaches_of_exec hexec rfl
      ⟨rfl, rfl, rfl, fun _ => rfl, nofun, fun _ => ⟨rfl, rfl⟩⟩

theorem decPush_afterShort {b : Byte} {s : State} (hinv : DecInv s) (hst : s.decSt = .block)
    (hcnt : s.decCnt = 0) (hb : b ≠ 0x00) :
    DecPushReaches b s fun t => Emitted s t 0x00 ∧ EntersBlock t b := by
  obtain ⟨u, c, hemit, honly, -, hem⟩ := emit_follows 0x00 hinv
  have hexec : exec (.decPush b) s = (u.enterBlock b).finish c := by
    rw [exec_decPush_afterShort hst hcnt hb, State.afterShort, hemit, orFault_ok]
  refine decPushReaches_of_exec hexec (honly.trans (onlyDecodingChanged_enterBlock u b))
    ⟨hem.congr rfl ?_ ?_ ?_, entersBlock_enterBlock u hb c⟩
  all_goals simp

theorem decPush_afterFull {b : Byte} {s : State} (hst : s.decSt = .pblock) (hcnt : s.decCnt = 0)
    (hb : b ≠ 0x00) :
    DecPushReaches b s fun t => t.code = .ok ∧ t.decLen = s.decLen ∧ t.decOvf = s.decOvf ∧
      EntersBlock t b ∧ SameRam s t := by
  refine decPushReaches_of_exec (exec_decPush_afterFull hst hcnt hb)
    (onlyDecodingChanged_enterBlock s b) ⟨rfl, ?_, ?_, entersBlock_enterBlock s hb _, fun x => ?_⟩
  all_goals simp [State.ramByte]

theorem decPush_malformed {s : State} (hst : s.decSt ≠ .idle) (hcnt : s.decCnt ≠ 0) :
    DecPushReaches 0x00 s fun t => t.code = .errMalformed ∧ t.decSt = .idle ∧ t.decCnt = 0 ∧
      t.decOvf = false ∧ t.decLen = 0 ∧ SameRam s t :=
  decPushReaches_of_exec (exec_decPush_malformed hst hcnt) rfl
    ⟨rfl, rfl, rfl, rfl, rfl, fun _ => rfl⟩

theorem decPush_literal {b : Byte} {s : State} (hinv : DecInv s) (hst : s.decSt ≠ .idle)
    (hcnt : s.decCnt ≠ 0) (hb : b ≠ 0x00) :
    DecPushReaches b s fun t => Emitted s t b ∧ t.decSt = s.decSt ∧
      t.decCnt.toNat + 1 = s.decCnt.toNat := by
  obtain ⟨u, c, hemit, honly, hkeep, hem⟩ := emit_follows b hinv
  have hexec : exec (.decPush b) s = State.finish { u with decCnt := s.decCnt - 1 } c := by
    rw [exec_decPush_literal hst hcnt hb, State.literal, hemit, orFault_ok]
  have hcounted : OnlyDecodingChanged u { u with decCnt := s.decCnt - 1 } := rfl
  refine decPushReaches_of_exec hexec (honly.trans hcounted) ⟨hem.congr rfl rfl rfl rfl, hkeep, ?_⟩
  simp only [State.complete_decCnt]
  bv_omega

/-- Settles O28: ST, CNT = 0 and b = 0x00 select one row of R140, and in each case the clauses of the
other rows have a false premise. -/
theorem decPushFollowsItsTable : Obligations.DecPushFollowsItsTable := by
  intro b s hinv
  refine ⟨encode_decPush b, ?_⟩
  change DecPushReaches b s _
  -- `0#8` is the form `simp` brings the 0x00 of the table into.
  by_cases hst : s.decSt = .idle
  case pos =>
    by_cases hb : b = 0#8
    · subst hb
      exact (decPush_stray hst).imp fun t h => by simpa [hst] using h
    · exact (decPush_frameStart hst hb).imp fun t h => by simpa [hst, hb] using h
  case neg =>
    by_cases hcnt : s.decCnt = 0#8 <;> by_cases hb : b = 0#8
    · subst hb
      exact (decPush_frameEnd hst hcnt).imp fun t h => by simpa [hst, hcnt] using h
    · cases hblock : s.decSt with
      | idle => exact absurd hblock hst
      | block =>
        exact (decPush_afterShort hinv hblock hcnt hb).imp fun t h => by simpa [hcnt, hb] using h
      | pblock =>
        exact (decPush_afterFull hblock hcnt hb).imp fun t h => by simpa [hcnt, hb] using h
    · subst hb
      exact (decPush_malformed hst hcnt).imp fun t h => by simpa [hst, hcnt] using h
    · exact (decPush_literal hinv hst hcnt hb).imp fun t h => by simpa [hst, hcnt, hb] using h

end Sys2Proof.Machine
end

section
/-! PROOF. The frame word codec (spec/44_frame_codec.md): control words (R171), the build body R178
and the verify body R182 once for the three shapes of R173, and FRM_WORD (R184). -/

namespace Sys2Proof

theorem encode_frmWord (j : Byte) :
    encode (.frmWord j) = 0x50000000#32 ||| j.setWidth 32 := by
  have hrest : Mnemonic.frmWord.op ++ flagByte false ++ (0x00 : Byte) ++ (0x00 : Byte) =
      0x50000000#32 := by decide
  rw [← hrest]
  exact encode_eq_or_imm (.frmWord j)

end Sys2Proof

namespace Sys2Proof.Machine

/-! ### Frame conditions -/

theorem SameRegsExcept.refl (changed : List Reg) (s : State) : SameRegsExcept changed s s :=
  ⟨fun _ _ _ => rfl, rfl, rfl, rfl⟩

/-- One write after another: what the first writes and what the second writes are listed together. -/
theorem SameRegsExcept.append {later earlier : List Reg} {s u v : State}
    (hsu : SameRegsExcept earlier s u) (huv : SameRegsExcept later u v) :
    SameRegsExcept (later ++ earlier) s v := by
  obtain ⟨hregs, hparams, hhost, hresp⟩ := hsu
  obtain ⟨hregs', hparams', hhost', hresp'⟩ := huv
  refine ⟨fun r hst hr => ?_, hparams'.trans hparams, hhost'.trans hhost, hresp'.trans hresp⟩
  rw [List.mem_append, not_or] at hr
  exact (hregs' r hst hr.1).trans (hregs r hst hr.2)

/-! ### Control words (R171) -/

theorem length_wordBytes_of_le {w : Nat} (hw : 2 ≤ w) (v : Half) : (wordBytes w v).length = w := by
  rw [length_wordBytes, Nat.sub_add_cancel hw]

/-- The value's two bytes, joined again. -/
theorem word16_wordBytes (v : Half) (w : Nat) : word16 (wordBytes w v) = v :=
  calc v.extractLsb' 8 8 ++ v.extractLsb' 0 8
      = v.extractLsb' 0 16 := BitVec.extractLsb'_append_extractLsb'_eq_extractLsb' rfl
    _ = v := BitVec.extractLsb'_eq_self

/-- A word read from the RAM has as its value its first two bytes. -/
theorem word16_bytes {n : Nat} (hn : 2 ≤ n) (m : Memory) (a : Nat) :
    word16 (m.bytes a n) = m.read a ++ m.read (a + 1) := by
  obtain ⟨k, rfl⟩ := Nat.exists_eq_add_of_le' hn
  rfl

/-- Settles O34: the three clauses on all words are the definition of `word_bytes` and of `word16`
and their round trip. -/
theorem controlWordIsBigEndian : Obligations.ControlWordIsBigEndian :=
  ⟨fun _ _ => rfl, fun _ _ _ => rfl, word16_wordBytes, by decide, by decide, by decide⟩

/-! ### The word width (R170) -/

theorem frameWidth_of_legal {s : State} (h : LegalWidth s) :
    s.frameWidth = some s.cfgWidth.toNat := if_pos h

theorem frameWidth_of_not_legal {s : State} (h : ¬LegalWidth s) : s.frameWidth = none := if_neg h

theorem LegalWidth.bounds {s : State} (h : LegalWidth s) :
    2 ≤ s.cfgWidth.toNat ∧ s.cfgWidth.toNat ≤ 4 := by
  obtain ⟨-, hw⟩ := frameWidth_eq_some (frameWidth_of_legal h)
  omega

/-! ### The shapes (R173) -/

/-- The control words of the data portion that a build command of a shape writes (R175 to R177). -/
def Shape.dataWords : Shape → State → List Half
  | .short, s => s.shortWords
  | .writeOne, s => s.writeWords
  | .normal, s => s.normalWords

/-- What a build command of a shape writes behind the data portion (R178). -/
def Shape.tail : Shape → Nat → Bool → Half → List Byte
  | .short | .writeOne => optionalTail
  | .normal => alwaysTail

theorem exec_build (sh : Shape) (c : Bool) (s : State) :
    exec (sh.build c) s = s.frameBuild sh.tail c (sh.dataWords s) := by
  cases sh <;> rfl

theorem exec_verify (sh : Shape) (s : State) :
    exec sh.verify s = s.frameVerify (sh.words s.cfgChannels.toNat) := by
  cases sh <;> rfl

/-- All words of a shape's frame but the CRC word are data. -/
theorem length_dataWords (sh : Shape) (s : State) :
    (sh.dataWords s).length + 1 = sh.words s.cfgChannels.toNat := by
  cases sh with
  | short | writeOne => rfl
  | normal => simp [Shape.dataWords, State.normalWords, State.channels, Shape.words]

theorem Shape.words_bounds (sh : Shape) (n : Byte) :
    2 ≤ sh.words n.toNat ∧ sh.words n.toNat ≤ 257 := by
  have hn : n.toNat < 256 := n.isLt
  cases sh <;> simp only [Shape.words] <;> omega

/-- FRM_LEN has room for the length of every frame: at most 257 words of at most 4 bytes. -/
theorem words_mul_width_le (sh : Shape) {s : State} (h : LegalWidth s) :
    sh.words s.cfgChannels.toNat * s.cfgWidth.toNat ≤ 1028 :=
  Nat.mul_le_mul (sh.words_bounds s.cfgChannels).2 h.bounds.2

/-! ### The bytes of a frame (R178) -/

theorem length_frameData {w : Nat} (hw : 2 ≤ w) (words : List Half) :
    (frameData w words).length = words.length * w := by
  simp [frameData, List.length_flatMap, Nat.sub_add_cancel hw]

theorem wordBytes_zero {w : Nat} (hw : 2 ≤ w) : wordBytes w 0x0000 = List.replicate w 0x00 := by
  obtain ⟨k, rfl⟩ := Nat.exists_eq_add_of_le' hw
  rfl

/-- N zero channel words are N * W zero bytes (R177). -/
theorem frameData_replicate_zero {w : Nat} (hw : 2 ≤ w) (n : Nat) :
    frameData w (List.replicate n 0x0000) = List.replicate (n * w) 0x00 := by
  rw [frameData, List.flatMap_def, List.map_replicate, wordBytes_zero hw,
    List.flatten_replicate_replicate]

theorem length_tail_le (sh : Shape) {w : Nat} (hw : 2 ≤ w) (c : Bool) (crc : Half) :
    (sh.tail w c crc).length ≤ w := by
  cases sh with
  | short | writeOne => cases c <;> simp [Shape.tail, optionalTail, Nat.sub_add_cancel hw]
  | normal => exact (length_wordBytes_of_le hw _).le

theorem length_frameBytes_le (sh : Shape) (c : Bool) {s : State} (h : LegalWidth s) :
    (frameBytes sh.tail s.cfgWidth.toNat c (sh.dataWords s)).length ≤ 1028 := by
  obtain ⟨hw, -⟩ := h.bounds
  calc (frameBytes sh.tail s.cfgWidth.toNat c (sh.dataWords s)).length
      ≤ (sh.dataWords s).length * s.cfgWidth.toNat + s.cfgWidth.toNat := by
        rw [frameBytes, List.length_append, length_frameData hw]
        exact Nat.add_le_add_left (length_tail_le sh hw c _) _
    _ = sh.words s.cfgChannels.toNat * s.cfgWidth.toNat := by
        rw [← Nat.succ_mul, ← length_dataWords]
    _ ≤ 1028 := words_mul_width_le sh h

/-! ### The build commands (R178) -/

/-- What a completed build writes beside the status. -/
def State.frameBuilt (s : State) (frame data : List Byte) : State :=
  { s with ram := s.ram.writeBytes s.arg0.toNat frame, frmLen := BitVec.ofNat 32 frame.length,
           frmCrc := crc16 data }

theorem sameRegsExcept_frameBuilt (s : State) (frame data : List Byte) :
    SameRegsExcept [.frmLen, .frmCrc] s (s.frameBuilt frame data) := by
  refine ⟨fun r _ hr => ?_, rfl, rfl, rfl⟩
  cases r with
  | frmLen | frmCrc => exact absurd (by decide) hr
  | _ => rfl

theorem build_raises_errConfig (sh : Shape) (c : Bool) {s : State} (h : ¬LegalWidth s) :
    RaisesOnly (sh.build c) s .errConfig := by
  refine raisesOnly_of_exec_eq_raise (by decide) ?_
  rw [exec_build, State.frameBuild, frameWidth_of_not_legal h]

section
variable {sh : Shape} {c : Bool} {s : State}

theorem exec_build_of_le (h : LegalWidth s)
    (hfits : s.arg0.toNat + (frameBytes sh.tail s.cfgWidth.toNat c (sh.dataWords s)).length
      ≤ s.params.ramSize) :
    exec (sh.build c) s =
      (s.frameBuilt (frameBytes sh.tail s.cfgWidth.toNat c (sh.dataWords s))
        (frameData s.cfgWidth.toNat (sh.dataWords s))).finish .ok := by
  rw [exec_build, State.frameBuild, frameWidth_of_legal h]
  simp only [State.argAddr, (inRam_iff _ _ _).2 hfits, if_true, memWriteSpan_ok hfits, orFault_ok]
  rfl

theorem exec_build_of_lt (h : LegalWidth s)
    (hpast : s.params.ramSize <
      s.arg0.toNat + (frameBytes sh.tail s.cfgWidth.toNat c (sh.dataWords s)).length) :
    exec (sh.build c) s = s.raise .errBounds := by
  rw [exec_build, State.frameBuild, frameWidth_of_legal h]
  exact if_neg fun hin => absurd ((inRam_iff _ _ _).1 hin) (Nat.not_le.2 hpast)

end

/-- R178 for every shape: the frame is written whole or not at all. -/
theorem build_buildsFrame (sh : Shape) (c : Bool) {s : State} (h : LegalWidth s) :
    BuildsFrame (sh.build c) s (frameData s.cfgWidth.toNat (sh.dataWords s))
      (sh.tail s.cfgWidth.toNat c (crc16 (frameData s.cfgWidth.toNat (sh.dataWords s)))) := by
  refine ⟨fun hfits => ?built, fun hpast =>
    raisesOnly_of_exec_eq_raise (by decide) (exec_build_of_lt h hpast)⟩
  case built =>
    refine ⟨_, completes_of_exec_eq_finish (exec_build_of_le h hfits) rfl rfl
      (sameRegsExcept_frameBuilt s _ _), ?length, rfl, Memory.bytes_writeBytes _ _ _,
      fun x hx => (Memory.read_writeBytes _ _ _ x).trans (if_neg hx)⟩
    case length =>
      have hlen := length_frameBytes_le sh c h
      exact Nat.mod_eq_of_lt (hlen.trans_lt (by decide))

/-! ### The verify commands (R182) -/

theorem sameRegsExcept_rejectFrame (s : State) : SameRegsExcept [.frmResp] s s.rejectFrame := by
  refine ⟨fun r hst hr => ?_, rfl, rfl, rfl⟩
  cases r with
  | status => exact absurd rfl hst
  | frmResp => exact absurd (by decide) hr
  | _ => rfl

theorem sameRegsExcept_acceptFrame (s : State) (data : List Byte) :
    SameRegsExcept [.frmResp] s (s.acceptFrame data) := by
  refine ⟨fun r hst hr => ?_, rfl, rfl, rfl⟩
  cases r with
  | status => exact absurd rfl hst
  | frmResp => exact absurd (by decide) hr
  | _ => rfl

theorem sameRegsExcept_measureFrame (s : State) (n : Nat) (data : List Byte) :
    SameRegsExcept [.frmCrc, .frmLen] s (s.measureFrame n data) := by
  refine ⟨fun r _ hr => ?_, rfl, rfl, rfl⟩
  cases r with
  | frmCrc | frmLen => exact absurd (by decide) hr
  | _ => rfl

/-- A verify that rejects the frame in `u`, having written no more than `changed` before, fails as
R182 says. -/
theorem verifyFails_of_exec {i : Instr} {s u : State} {c : Code} {changed : List Reg}
    (hc : c.isError = true) (hexec : exec i s = u.rejectFrame.raise c)
    (hregs : SameRegsExcept changed s u) (hram : u.ram = s.ram) :
    VerifyFails i s c changed (u.rejectFrame.complete c) := by
  refine ⟨hexec, rfl, complete_err_of_isError hc _, rfl, rfl,
    (hregs.append (sameRegsExcept_rejectFrame u)).complete c, fun x => ?_⟩
  simp only [State.ramByte, State.complete_ram, State.rejectFrame_ram, hram]

theorem verify_raises_errConfig (sh : Shape) {s : State} (h : ¬LegalWidth s) :
    ∃ t, VerifyFails sh.verify s .errConfig [] t := by
  have hexec : exec sh.verify s = s.rejectFrame.raise .errConfig := by
    rw [exec_verify, State.frameVerify, frameWidth_of_not_legal h]
  exact ⟨_, verifyFails_of_exec (by decide) hexec (.refl [] s) rfl⟩

theorem frameVerify_of_lt {s : State} {k : Nat} (h : LegalWidth s)
    (hpast : s.params.ramSize < s.arg0.toNat + k * s.cfgWidth.toNat) :
    s.frameVerify k = s.rejectFrame.raise .errBounds := by
  rw [State.frameVerify, frameWidth_of_legal h]
  exact if_neg fun hin => absurd ((inRam_iff _ _ _).1 hin) (Nat.not_le.2 hpast)

/-- A frame inside the RAM is judged by its bytes: both reads stay inside the checked range. -/
theorem frameVerify_of_le {s : State} {k : Nat} (h : LegalWidth s) (hk : 1 ≤ k)
    (hfits : s.arg0.toNat + k * s.cfgWidth.toNat ≤ s.params.ramSize) :
    let data := s.ram.bytes s.arg0.toNat ((k - 1) * s.cfgWidth.toNat)
    s.frameVerify k = (s.measureFrame (k * s.cfgWidth.toNat) data).judgeFrame data
      (s.ram.bytes (s.arg0.toNat + (k - 1) * s.cfgWidth.toNat) 2) := by
  obtain ⟨hw, -⟩ := h.bounds
  have hsplit : k * s.cfgWidth.toNat = (k - 1) * s.cfgWidth.toNat + s.cfgWidth.toNat := by
    rw [← Nat.succ_mul, Nat.succ_eq_add_one, Nat.sub_add_cancel hk]
  rw [State.frameVerify, frameWidth_of_legal h]
  simp only [State.argAddr, (inRam_iff _ _ _).2 hfits, if_true]
  rw [memReadSpan_ok (by omega), orFault_ok, memReadSpan_ok (by omega), orFault_ok]

theorem judgeFrame_of_eq {s : State} {data trailing : List Byte}
    (h : crc16 data = word16 trailing) :
    s.judgeFrame data trailing = (s.acceptFrame data).finish .ok := if_pos h

theorem judgeFrame_of_ne {s : State} {data trailing : List Byte}
    (h : crc16 data ≠ word16 trailing) :
    s.judgeFrame data trailing = s.rejectFrame.raise .errCrc := if_neg h

/-- R182 for every shape: the range, then the comparison, decide the outcome. -/
theorem verify_verifiesFrame (sh : Shape) {s : State} (h : LegalWidth s) :
    VerifiesFrame sh.verify s (sh.words s.cfgChannels.toNat) s.cfgWidth.toNat := by
  obtain ⟨hw, -⟩ := h.bounds
  obtain ⟨hk, -⟩ := sh.words_bounds s.cfgChannels
  have hlen := words_mul_width_le sh h
  have hexec := exec_verify sh s
  generalize sh.words s.cfgChannels.toNat = k at *
  refine ⟨fun hpast => ?range, fun hfits => ⟨fun hcrc => ?pass, fun hcrc => ?mismatch⟩⟩
  case range =>
    rw [frameVerify_of_lt h hpast] at hexec
    exact ⟨_, verifyFails_of_exec (by decide) hexec (.refl [] s) rfl⟩
  all_goals
    rw [frameVerify_of_le h (Nat.one_le_of_lt hk) hfits] at hexec
    have hmeasured := sameRegsExcept_measureFrame s (k * s.cfgWidth.toNat)
      (s.ram.bytes s.arg0.toNat ((k - 1) * s.cfgWidth.toNat))
    have hfrmLen : (BitVec.ofNat 32 (k * s.cfgWidth.toNat)).toNat = k * s.cfgWidth.toNat :=
      Nat.mod_eq_of_lt (hlen.trans_lt (by decide))
    have htrailing := word16_bytes (Nat.le_refl 2) s.ram
      (s.arg0.toNat + (k - 1) * s.cfgWidth.toNat)
  case pass =>
    have hdata : 2 ≤ (k - 1) * s.cfgWidth.toNat :=
      hw.trans (Nat.le_mul_of_pos_left _ (Nat.sub_pos_of_lt hk))
    rw [judgeFrame_of_eq (hcrc.trans htrailing.symm)] at hexec
    exact ⟨_, hexec, rfl, Bool.or_false _, rfl, word16_bytes hdata s.ram s.arg0.toNat, rfl, hfrmLen,
      (hmeasured.append (sameRegsExcept_acceptFrame _ _)).complete .ok, fun _ => rfl⟩
  case mismatch =>
    rw [judgeFrame_of_ne fun heq => hcrc (heq.trans htrailing)] at hexec
    exact ⟨_, verifyFails_of_exec (by decide) hexec hmeasured rfl, rfl, hfrmLen⟩

/-! ### FRM_WORD (R184) -/

theorem frmWord_raises_errConfig (j : Byte) {s : State} (h : ¬LegalWidth s) :
    RaisesOnly (.frmWord j) s .errConfig := by
  refine raisesOnly_of_exec_eq_raise (by decide) ?_
  change execFrmWord j s = _
  rw [execFrmWord, frameWidth_of_not_legal h]

/-- The two readings of a raw word. -/
def State.wordRead (s : State) (w : Nat) (bytes : List Byte) : State :=
  { s with frmWval := word16 bytes, frmSval := chan32 w bytes }

theorem sameRegsExcept_wordRead (s : State) (w : Nat) (bytes : List Byte) :
    SameRegsExcept [.frmWval, .frmSval] s (s.wordRead w bytes) := by
  refine ⟨fun r _ hr => ?_, rfl, rfl, rfl⟩
  cases r with
  | frmWval | frmSval => exact absurd (by decide) hr
  | _ => rfl

section
variable {j : Byte} {s : State}

theorem exec_frmWord_of_le (h : LegalWidth s)
    (hfits : s.arg0.toNat + j.toNat * s.cfgWidth.toNat + s.cfgWidth.toNat ≤ s.params.ramSize) :
    exec (.frmWord j) s =
      (s.wordRead s.cfgWidth.toNat (s.ram.bytes (s.arg0.toNat + j.toNat * s.cfgWidth.toNat)
        s.cfgWidth.toNat)).finish .ok := by
  change execFrmWord j s = _
  rw [execFrmWord, frameWidth_of_legal h]
  simp only [State.argAddr, (inRam_iff _ _ _).2 hfits, if_true, memReadSpan_ok hfits, orFault_ok]
  rfl

theorem exec_frmWord_of_lt (h : LegalWidth s)
    (hpast : s.params.ramSize <
      s.arg0.toNat + j.toNat * s.cfgWidth.toNat + s.cfgWidth.toNat) :
    exec (.frmWord j) s = s.raise .errBounds := by
  change execFrmWord j s = _
  rw [execFrmWord, frameWidth_of_legal h]
  exact if_neg fun hin => absurd ((inRam_iff _ _ _).1 hin) (Nat.not_le.2 hpast)

end

/-! ### The obligations -/

/-- Settles O33: every frame command looks at the width first. -/
theorem illegalWidthIsAConfigError : Obligations.IllegalWidthIsAConfigError :=
  fun _ h => ⟨fun sh c => build_raises_errConfig sh c h, fun j => frmWord_raises_errConfig j h,
    fun sh => verify_raises_errConfig sh h⟩

/-- Settles O35: the short shape has one data word. -/
theorem buildShortWritesItsFrame : Obligations.BuildShortWritesItsFrame := by
  intro c s
  refine ⟨?encoding, build_raises_errConfig .short c, fun h => ?frame⟩
  case encoding => cases c <;> rfl
  case frame =>
    have hdata : frameData s.cfgWidth.toNat (Shape.dataWords .short s) =
        wordBytes s.cfgWidth.toNat (s.arg2.extractLsb' 0 16) := List.append_nil _
    have hframe := build_buildsFrame .short c h
    rwa [hdata] at hframe

/-- Settles O36: the write-one shape has two data words. -/
theorem buildWriteWritesItsFrame : Obligations.BuildWriteWritesItsFrame := by
  intro c s
  refine ⟨?encoding, build_raises_errConfig .writeOne c, fun h => ?frame⟩
  case encoding => cases c <;> rfl
  case frame =>
    have hdata : frameData s.cfgWidth.toNat (Shape.dataWords .writeOne s) =
        wordBytes s.cfgWidth.toNat (s.arg2.extractLsb' 0 16) ++
          wordBytes s.cfgWidth.toNat (s.arg3.extractLsb' 0 16) :=
      congrArg _ (List.append_nil _)
    have hframe := build_buildsFrame .writeOne c h
    rwa [hdata] at hframe

/-- Settles O37: the normal shape has the command word and N zero words as data, and its slot is
there with and without C. -/
theorem buildNormalWritesItsFrame : Obligations.BuildNormalWritesItsFrame := by
  intro c s
  refine ⟨?encoding, build_raises_errConfig .normal c, fun h => ?frame⟩
  case encoding => cases c <;> rfl
  case frame =>
    have hdata : frameData s.cfgWidth.toNat (Shape.dataWords .normal s) =
        wordBytes s.cfgWidth.toNat (s.arg2.extractLsb' 0 16) ++
          List.replicate (s.cfgChannels.toNat * s.cfgWidth.toNat) 0x00 :=
      congrArg _ (frameData_replicate_zero h.bounds.1 _)
    have hframe := build_buildsFrame .normal c h
    rwa [hdata] at hframe

/-- Settles O38: the short shape has two words. -/
theorem verifyShortChecksTwoWords : Obligations.VerifyShortChecksTwoWords :=
  ⟨rfl, fun _ => ⟨verify_raises_errConfig .short, verify_verifiesFrame .short⟩⟩

/-- Settles O39: the write-one shape has three words. -/
theorem verifyWriteChecksThreeWords : Obligations.VerifyWriteChecksThreeWords :=
  ⟨rfl, fun _ => ⟨verify_raises_errConfig .writeOne, verify_verifiesFrame .writeOne⟩⟩

/-- Settles O40: the normal shape has N + 2 words. -/
theorem verifyNormalChecksAllWords : Obligations.VerifyNormalChecksAllWords :=
  ⟨rfl, fun _ => ⟨verify_raises_errConfig .normal, verify_verifiesFrame .normal⟩⟩

/-- Settles O43: the range check decides between reading the W bytes and raising the error. -/
theorem frmWordReadsTheRawWord : Obligations.FrmWordReadsTheRawWord := by
  intro j s
  refine ⟨encode_frmWord j, frmWord_raises_errConfig j, fun h => ⟨fun hfits => ?reads, fun hpast =>
    raisesOnly_of_exec_eq_raise (by decide) (exec_frmWord_of_lt h hpast)⟩⟩
  case reads =>
    exact ⟨_, completes_of_exec_eq_finish (exec_frmWord_of_le h hfits) rfl rfl
      (sameRegsExcept_wordRead s _ _), word16_bytes h.bounds.1 _ _, rfl, fun _ => rfl⟩

end Sys2Proof.Machine
end

section
/-! PROOF. The control commands (spec/45_control.md): NOP (R200), SOFT_RESET (R201), with the reset
value of every register (R231), and CLR_ERR (R202). -/

namespace Sys2Proof.Machine

/-! ### NOP (R200) -/

theorem exec_nop (s : State) : exec .nop s = s.finish .ok := rfl

/-! ### SOFT_RESET (R201) -/

/-- After a power-on reset only CRC_ACC reads other than 0, whatever the parameters and the RAM
(R231). -/
theorem readReg_powerOn (p : Params) (ram : Memory) (r : Reg) :
    (State.powerOn p ram).readReg r = if r = .crcAcc then 0x0000FFFF else 0x00000000 := by
  cases r with
  | status | cfg | encState | decState =>
    -- A packed register is the concatenation of its fields, all of them zero.
    simp [State.readReg, State.powerOn, State.statusWord, State.cfgWord, State.encStateWord,
      State.decStateWord, Code.toByte, EncSt.toBits, DecSt.toBits]
  | _ => rfl

/-- The host's accesses and the bus's answer are no registers. -/
theorem readReg_with_host_resp (s : State) (host : List Access) (resp : BusResult) (r : Reg) :
    State.readReg { s with host := host, resp := resp } r = s.readReg r := by
  cases r <;> rfl

/-- The state SOFT_RESET leads to: that of a power-on reset over the parameters and the RAM as they
are, with the host's side kept. -/
def State.softReset (s : State) : State :=
  { State.powerOn s.params s.ram with host := s.host, resp := s.resp }

theorem exec_softReset (s : State) : exec .softReset s = .next s.softReset := rfl

theorem readReg_softReset (s : State) (r : Reg) :
    s.softReset.readReg r = if r = .crcAcc then 0x0000FFFF else 0x00000000 := by
  rw [State.softReset, readReg_with_host_resp, readReg_powerOn]

theorem sameRam_softReset (s : State) : SameRam s s.softReset := fun _ => rfl

/-! ### CLR_ERR (R202) -/

theorem exec_clrErr (s : State) :
    exec .clrErr s = State.finish { s with err := false } .ok := rfl

/-- ERR is a bit of STATUS and of no other register (R25). -/
theorem sameRegsExcept_with_err (changed : List Reg) (s : State) (e : Bool) :
    SameRegsExcept changed s { s with err := e } := by
  refine ⟨fun r hst _ => ?_, rfl, rfl, rfl⟩
  cases r with
  | status => exact absurd rfl hst
  | _ => rfl

/-! ### The obligations -/

/-- Settles O10: NOP completes with OK in the state it started from. -/
theorem nopOnlyReportsOk : Obligations.NopOnlyReportsOk :=
  ⟨rfl, fun s => ⟨_, completes_of_exec_eq_finish (exec_nop s) rfl rfl (.refl [] s),
    sameRam_complete s .ok⟩⟩

/-- Settles O11: SOFT_RESET leads to the power-on state over the same parameters and RAM, whose
registers read their reset values. -/
theorem softResetClearsTheRegisters : Obligations.SoftResetClearsTheRegisters :=
  ⟨rfl, fun s => ⟨s.softReset, exec_softReset s, rfl, readReg_softReset s, sameRam_softReset s,
    rfl, rfl, rfl⟩⟩

/-- Settles O12: CLR_ERR clears ERR before it completes, and completing with OK does not set it
again (R213). -/
theorem clrErrClearsTheStickyFlag : Obligations.ClrErrClearsTheStickyFlag :=
  ⟨rfl, fun s => ⟨_, exec_clrErr s, rfl, rfl, rfl, (sameRegsExcept_with_err [] s false).complete .ok,
    fun _ => rfl⟩⟩

end Sys2Proof.Machine
end

section
/-! PROOF. The sticky error flag (spec/60_exceptions.md R213) over every command: a command keeps ERR
until it completes, and completing sets ERR when its code is an error; only CLR_ERR and SOFT_RESET
do otherwise. -/

namespace Sys2Proof.Machine

/-! ### The rule of R213 for one command's outcome -/

/-- R213 for a command run from `s` with the outcome `r`: where it completes, ERR is set if it was set
or the code is an error, and is clear otherwise. -/
def SetsErrByCode (s : State) (r : Result) : Prop :=
  ∀ t, r = .next t → t.err = (s.err || t.code.isError)

section
variable {s u : State}

/-- Completing obeys the rule, provided that what the command wrote before did not touch ERR. -/
theorem complete_err_eq (h : u.err = s.err) (c : Code) :
    (u.complete c).err = (s.err || (u.complete c).code.isError) := by
  rw [State.complete_err, State.complete_code, h]

theorem SetsErrByCode.of_finish {c : Code} (h : u.err = s.err) : SetsErrByCode s (u.finish c) := by
  intro t ht
  rw [← finish_eq_next.1 ht, complete_err_eq h]

theorem SetsErrByCode.of_raise {c : Code} (h : u.err = s.err) : SetsErrByCode s (u.raise c) :=
  .of_finish h

theorem SetsErrByCode.of_ite {p : Prop} [Decidable p] {r r' : Result} (h : SetsErrByCode s r)
    (h' : SetsErrByCode s r') : SetsErrByCode s (if p then r else r') := by
  split
  · exact h
  · exact h'

/-- After a fallible read or write only the continuation matters: a fault completes nothing. -/
theorem SetsErrByCode.of_orFault {α : Type} {x : Except Fault α} {k : α → Result}
    (h : ∀ v, x = .ok v → SetsErrByCode s (k v)) : SetsErrByCode s (orFault x k) := by
  intro t ht
  obtain ⟨v, hx, hk⟩ := orFault_eq_next ht
  exact h v hx t hk

end

/-! ### The CRC unit and the encoder -/

theorem setsErrByCode_crcSpan (i : Bool) (s : State) : SetsErrByCode s (exec (.crcSpan i) s) :=
  .of_ite (.of_orFault fun _ _ => .of_finish rfl) (.of_raise rfl)

theorem setsErrByCode_encStart (s : State) : SetsErrByCode s (exec .encStart s) :=
  .of_ite (.of_finish rfl) (.of_raise rfl)

theorem setsErrByCode_encPull (s : State) : SetsErrByCode s (exec .encPull s) := by
  intro t ht
  obtain ⟨-, rfl⟩ | ⟨-, rfl⟩ | ⟨-, l, z, -, rfl⟩ | ⟨-, -, rfl⟩ := execEncPull_cases ht
  · exact complete_err_eq rfl _
  · exact complete_err_eq rfl _
  · exact complete_err_eq (s.pullCode_err l z) _
  · exact complete_err_eq (s.pullData_err _) _

/-! ### The decoder -/

theorem setsErrByCode_decReset (s : State) : SetsErrByCode s (exec .decReset s) :=
  .of_ite (.of_finish rfl) (.of_raise rfl)

/-- emit(v) reports its code but leaves ERR to the completion (R141). -/
theorem emit_err {s : State} {v : Byte} {r : State × Code} (h : s.emit v = .ok r) :
    r.1.err = s.err := by
  obtain ⟨-, -, -, -, ht⟩ | ⟨-, -, ht⟩ := emit_cases h
  · rw [ht]
  · rw [ht]

theorem setsErrByCode_frameStart (s : State) (b : Byte) : SetsErrByCode s (s.frameStart b) :=
  .of_finish (State.enterBlock_err _ b)

theorem setsErrByCode_frameEnd (s : State) : SetsErrByCode s s.frameEnd :=
  .of_ite (.of_raise rfl) (.of_finish rfl)

theorem setsErrByCode_malformed (s : State) : SetsErrByCode s s.malformed := .of_raise rfl

theorem setsErrByCode_literal (s : State) (b : Byte) : SetsErrByCode s (s.literal b) :=
  .of_orFault fun _ hr => .of_finish (emit_err hr)

theorem setsErrByCode_afterShort (s : State) (b : Byte) : SetsErrByCode s (s.afterShort b) :=
  .of_orFault fun _ hr => .of_finish ((State.enterBlock_err _ b).trans (emit_err hr))

theorem setsErrByCode_afterFull (s : State) (b : Byte) : SetsErrByCode s (s.afterFull b) :=
  .of_finish (s.enterBlock_err b)

/-- DEC_PUSH: every row of R140 obeys the rule. -/
theorem setsErrByCode_decPush (b : Byte) (s : State) : SetsErrByCode s (exec (.decPush b) s) := by
  have hend := setsErrByCode_frameEnd s
  have hinside := SetsErrByCode.of_ite (p := b = 0x00) (setsErrByCode_malformed s)
    (setsErrByCode_literal s b)
  change SetsErrByCode s (execDecPush b s)
  unfold execDecPush
  split
  · exact .of_ite (.of_finish rfl) (setsErrByCode_frameStart s b)
  · exact .of_ite (.of_ite hend (setsErrByCode_afterShort s b)) hinside
  · exact .of_ite (.of_ite hend (setsErrByCode_afterFull s b)) hinside

/-! ### The frame codec -/

theorem setsErrByCode_frameBuild (s : State) (tail : Nat → Bool → Half → List Byte) (c : Bool)
    (words : List Half) : SetsErrByCode s (s.frameBuild tail c words) := by
  intro t ht
  obtain ⟨-, rfl⟩ | ⟨w, -, ⟨-, rfl⟩ | ⟨-, rfl⟩⟩ := frameBuild_cases ht
  · exact complete_err_eq rfl _
  · exact complete_err_eq rfl _
  · exact complete_err_eq rfl _

theorem setsErrByCode_frameVerify (s : State) {k : Nat} (hk : 2 ≤ k) :
    SetsErrByCode s (s.frameVerify k) := by
  intro t ht
  obtain ⟨-, rfl⟩ | ⟨w, -, ⟨-, rfl⟩ | ⟨-, data, u, -, rfl, ⟨-, rfl⟩ | ⟨-, rfl⟩⟩⟩ :=
    frameVerify_cases hk ht
  · exact complete_err_eq s.rejectFrame_err _
  · exact complete_err_eq s.rejectFrame_err _
  · exact complete_err_eq rfl _
  · exact complete_err_eq rfl _

theorem setsErrByCode_frmWord (j : Byte) (s : State) : SetsErrByCode s (exec (.frmWord j) s) := by
  change SetsErrByCode s (execFrmWord j s)
  unfold execFrmWord
  split
  · exact .of_raise rfl
  · exact .of_ite (.of_orFault fun _ _ => .of_finish rfl) (.of_raise rfl)

/-! ### Every command -/

/-- R213 for every command but the two that clear ERR. -/
theorem exec_setsErrByCode {i : Instr} (hclr : i ≠ .clrErr) (hsoft : i ≠ .softReset) (s : State) :
    SetsErrByCode s (exec i s) := by
  cases i with
  | softReset => exact absurd rfl hsoft
  | clrErr => exact absurd rfl hclr
  | nop | crcInit | crcByte b => exact .of_finish rfl
  | crcSpan i => exact setsErrByCode_crcSpan i s
  | encStart => exact setsErrByCode_encStart s
  | encPull => exact setsErrByCode_encPull s
  | decReset => exact setsErrByCode_decReset s
  | decPush b => exact setsErrByCode_decPush b s
  | frmBuildShort c | frmBuildWrite c | frmBuildNormal c => exact setsErrByCode_frameBuild s _ c _
  | frmVerifyShort | frmVerifyWrite => exact setsErrByCode_frameVerify s (by decide)
  | frmVerifyNormal => exact setsErrByCode_frameVerify s (Nat.le_add_left 2 _)
  | frmWord j => exact setsErrByCode_frmWord j s

/-- CLR_ERR and SOFT_RESET complete with OK and ERR clear (R201, R202). -/
theorem exec_clears_err {i : Instr} (hi : i = .clrErr ∨ i = .softReset) (s : State) :
    ∃ t, exec i s = .next t ∧ t.code = .ok ∧ t.err = false := by
  obtain rfl | rfl := hi
  · exact ⟨_, exec_clrErr s, rfl, rfl⟩
  · exact ⟨s.softReset, exec_softReset s, rfl, rfl⟩

/-- The three clauses of R213 for one command, from what it does to ERR. -/
theorem exec_err_rule {i : Instr} {s t : State} (h : exec i s = .next t) :
    (t.code.isError = true → t.err = true) ∧
    (i ≠ .clrErr → i ≠ .softReset → s.err = true → t.err = true) ∧
    (t.code.isError = false → s.err = false → t.err = false) := by
  by_cases hi : i = .clrErr ∨ i = .softReset
  · obtain ⟨u, hu, hcode, herr⟩ := exec_clears_err hi s
    obtain rfl : u = t := by simpa [hu] using h
    refine ⟨fun hc => ?_, fun hclr hsoft => absurd hi (not_or.2 ⟨hclr, hsoft⟩), fun _ _ => herr⟩
    rw [hcode] at hc
    exact absurd hc (by decide)
  · obtain ⟨hclr, hsoft⟩ := not_or.1 hi
    have herr := exec_setsErrByCode hclr hsoft s t h
    exact ⟨fun hc => by simp [herr, hc], fun _ _ hs => by simp [herr, hs],
      fun hc hs => by simp [herr, hc, hs]⟩

/-! ### The obligation -/

/-- Settles O54: each command's outcome obeys the rule or clears ERR, and a word that is no command
reports ERR_ILLEGAL alone. -/
theorem errIsSticky : Obligations.ErrIsSticky := by
  refine ⟨fun i s t h => exec_err_rule h, fun s => ⟨?_, ?_⟩, fun _ _ => rfl, fun w s t hno h => ?_⟩
  · obtain ⟨t, ht, -, herr⟩ := exec_clears_err (.inl rfl) s
    exact ⟨t, ht, herr⟩
  · obtain ⟨t, ht, -, herr⟩ := exec_clears_err (.inr rfl) s
    exact ⟨t, ht, herr⟩
  · cases hw : decode w with
    | ok i => exact absurd hw (hno i)
    | error e =>
      obtain rfl : s.complete .errIllegal = t := by simpa [runWord_of_decode_eq_error hw s] using h
      have herr : Code.errIllegal.isError = true := by decide
      exact ⟨herr, complete_err_of_isError herr s⟩

end Sys2Proof.Machine
end

section
/-! PROOF. The reset values (spec/70_reset_and_hazards.md R230, R231): the register map after a
power-on reset, and SOFT_RESET leading to the same values. -/

namespace Sys2Proof.Machine

/-! ### The two resets against each other -/

/-- R231: SOFT_RESET leaves the registers as a power-on reset does, whatever parameters and RAM
either of them has. -/
theorem readReg_softReset_eq_powerOn (u : State) (p : Params) (ram : Memory) (r : Reg) :
    u.softReset.readReg r = (State.powerOn p ram).readReg r := by
  rw [readReg_softReset, readReg_powerOn]

/-! ### The obligation -/

/-- Settles O13: with CRC_ACC the only register that does not read 0 after a reset, the map's rows
evaluate one by one; the fields are those of the power-on state. -/
theorem resetsGiveTheStatedValues : Obligations.ResetsGiveTheStatedValues := by
  intro p ram
  refine ⟨?registers, rfl, rfl, rfl, rfl, rfl, rfl, rfl, rfl, rfl, rfl, rfl, fun u =>
    ⟨u.softReset, exec_softReset u, readReg_softReset_eq_powerOn u p ram⟩⟩
  case registers =>
    simp only [readReg_powerOn]
    rfl

end Sys2Proof.Machine
end

section
/-! PROOF. The command word (spec/30_encoding.md): decoding from the four fields (R81), encode and
decode as inverses of each other, the rows of the opcode map (R85) in terms of the fields, and the
assembler (R88). -/

namespace Sys2Proof

/-! ### The fields a command may set (R81, R82) -/

theorem Mnemonic.ofOp_op (m : Mnemonic) : Mnemonic.ofOp m.op = some m := by
  cases m <;> rfl

/-- The decoder on a word given by its fields. -/
theorem decode_of_fields {w : Word} {m : Mnemonic} (hop : opField w = m.op)
    (hflag : flagField w &&& ~~~m.flagMask = 0) (hrsv : reservedField w = 0)
    (himm : immField w &&& ~~~m.immMask = 0) :
    decode w = .ok (m.instr ((flagField w).getLsbD 0) (immField w)) := by
  simp only [decode, hop, Mnemonic.ofOp_op, hrsv, hflag, himm, ne_eq, not_true_eq_false, if_false]

@[simp] theorem Mnemonic.mnemonic_instr (m : Mnemonic) (f : Bool) (b : Byte) :
    (m.instr f b).mnemonic = m := by
  cases m <;> rfl

theorem Mnemonic.flag_instr (m : Mnemonic) (f : Bool) (b : Byte) :
    (m.instr f b).flag = if m.suffix.isSome then f else false := by
  cases m <;> rfl

theorem Mnemonic.imm_instr (m : Mnemonic) (f : Bool) (b : Byte) :
    (m.instr f b).imm = if m.takesOperand then b else 0 := by
  cases m <;> rfl

/-- A command is what its mnemonic makes of its operands. -/
theorem Instr.instr_mnemonic (i : Instr) : i.mnemonic.instr i.flag i.imm = i := by
  cases i <;> rfl

@[simp] theorem getLsbD_flagByte (f : Bool) : (flagByte f).getLsbD 0 = f := by
  cases f <;> rfl

/-- A command sets no flag bit that its mnemonic may not set. -/
theorem Instr.flagByte_and_not_flagMask (i : Instr) :
    flagByte i.flag &&& ~~~i.mnemonic.flagMask = 0 := by
  cases i with
  | crcSpan f | frmBuildShort f | frmBuildWrite f | frmBuildNormal f => cases f <;> rfl
  | _ => exact BitVec.zero_and

theorem Mnemonic.and_not_immMask (m : Mnemonic) (b : Byte) :
    b &&& ~~~m.immMask = if m.takesOperand then 0 else b := by
  unfold Mnemonic.immMask
  split
  · exact BitVec.and_zero
  · exact BitVec.and_allOnes

theorem Instr.imm_and_not_immMask (i : Instr) : i.imm &&& ~~~i.mnemonic.immMask = 0 := by
  rw [Mnemonic.and_not_immMask]
  cases i <;> rfl

/-- The flag field of a legal word is F[0] alone. -/
theorem Mnemonic.eq_flagByte_of_and_not_flagMask {m : Mnemonic} {f : Byte}
    (h : f &&& ~~~m.flagMask = 0) :
    f = flagByte (if m.suffix.isSome then f.getLsbD 0 else false) := by
  unfold Mnemonic.flagMask at h
  split_ifs at h ⊢
  · revert f; decide
  · exact (BitVec.and_allOnes (x := f)).symm.trans h

/-! ### Encode and decode -/

/-- Settles O1: the decoder finds in the encoding the fields that R81 puts there. -/
theorem decodeOfEncodeIsTheCommand : Obligations.DecodeOfEncodeIsTheCommand := by
  intro i
  obtain ⟨hop, hflag, hrsv, himm⟩ := Laws.encoded_fields i
  rw [decode_of_fields hop (hflag ▸ i.flagByte_and_not_flagMask) hrsv
    (himm ▸ i.imm_and_not_immMask), hflag, himm, getLsbD_flagByte, i.instr_mnemonic]

/-- Settles O2: the encoding puts together the fields that the decoder took apart; the bits it does
not take up are 0 in a legal word. -/
theorem encodeOfDecodeIsTheWord : Obligations.EncodeOfDecodeIsTheWord := by
  intro w i h
  obtain ⟨m, hop, hflag, hrsv, himm, rfl⟩ := decode_eq_ok h
  have hF := Mnemonic.eq_flagByte_of_and_not_flagMask hflag
  have hI : (if m.takesOperand then immField w else 0) = immField w := by
    rw [Mnemonic.and_not_immMask] at himm
    split_ifs at himm ⊢
    · rfl
    · exact himm.symm
  calc encode (m.instr ((flagField w).getLsbD 0) (immField w))
      = m.op ++ flagByte (if m.suffix.isSome then (flagField w).getLsbD 0 else false) ++
          (0x00 : Byte) ++ (if m.takesOperand then immField w else 0) := by
        rw [encode, Mnemonic.mnemonic_instr, Mnemonic.flag_instr, Mnemonic.imm_instr]
    _ = opField w ++ flagField w ++ reservedField w ++ immField w := by
        rw [← hF, hI, hop, hrsv]
    _ = w := fields_join w

/-! ### The opcode map (R85) -/

/-- Each row of R85 is the one that R81 makes of its mnemonic. -/
theorem eq_row_of_mem_opcodeTable : ∀ {row : OpcodeRow}, row ∈ opcodeTable →
    row = row.mnemonic.row := by
  decide

theorem fields_and (w v : Word) :
    opField (w &&& v) = opField w &&& opField v ∧
      flagField (w &&& v) = flagField w &&& flagField v ∧
      reservedField (w &&& v) = reservedField w &&& reservedField v ∧
      immField (w &&& v) = immField w &&& immField v :=
  ⟨BitVec.extractLsb'_and, BitVec.extractLsb'_and, BitVec.extractLsb'_and, BitVec.extractLsb'_and⟩

/-- A word that matches the row of a mnemonic has the fields of that mnemonic: `and_row_mask`
reversed. -/
theorem fields_of_and_row_mask {w : Word} {m : Mnemonic} (h : w &&& m.row.mask = m.row.pattern) :
    opField w = m.op ∧ flagField w &&& ~~~m.flagMask = 0 ∧ reservedField w = 0 ∧
      immField w &&& ~~~m.immMask = 0 := by
  obtain ⟨hop, hflag, hrsv, himm⟩ := fields_and w m.row.mask
  obtain ⟨mop, mflag, mrsv, mimm⟩ := Laws.fields_append 0xFF (~~~m.flagMask) 0xFF (~~~m.immMask)
  obtain ⟨pop, pflag, prsv, pimm⟩ := Laws.fields_append m.op 0 0 0
  change opField m.row.mask = 0xFF at mop
  change flagField m.row.mask = _ at mflag
  change reservedField m.row.mask = 0xFF at mrsv
  change immField m.row.mask = _ at mimm
  rw [h, mop] at hop
  rw [h, mflag] at hflag
  rw [h, mrsv] at hrsv
  rw [h, mimm] at himm
  exact ⟨(BitVec.and_allOnes.symm.trans hop.symm).trans pop, hflag.symm.trans pflag,
    (BitVec.and_allOnes.symm.trans hrsv.symm).trans prsv, himm.symm.trans pimm⟩

/-- A word of a row decodes to a command with the row's mnemonic. -/
theorem decode_of_row {w : Word} {row : OpcodeRow} (hrow : row ∈ opcodeTable)
    (h : w &&& row.mask = row.pattern) :
    ∃ i, decode w = .ok i ∧ i.mnemonic = row.mnemonic ∧ i.flag = w.getLsbD 16 ∧
      i.imm = w.extractLsb' 0 8 := by
  rw [eq_row_of_mem_opcodeTable hrow] at h
  obtain ⟨hop, hflag, hrsv, himm⟩ := fields_of_and_row_mask h
  refine ⟨_, decode_of_fields hop hflag hrsv himm, Mnemonic.mnemonic_instr _ _ _, ?flag, ?imm⟩
  case flag =>
    have hF := congrArg (·.getLsbD 0) (Mnemonic.eq_flagByte_of_and_not_flagMask hflag)
    simp only [getLsbD_flagByte] at hF
    rw [Mnemonic.flag_instr, ← hF]
    simp [flagField]
  case imm =>
    rw [Mnemonic.and_not_immMask] at himm
    rw [Mnemonic.imm_instr]
    split_ifs at himm ⊢
    · rfl
    · exact himm.symm

/-- Settles O3: a word of a row has the fields of the row's mnemonic. -/
theorem decoderFollowsTheOpcodeMap : Obligations.DecoderFollowsTheOpcodeMap :=
  fun _ _ hrow h => decode_of_row hrow h

/-- Settles O4: the decoder gives the word one mnemonic, and the mnemonic has one row. -/
theorem noWordMatchesTwoRows : Obligations.NoWordMatchesTwoRows := by
  intro w r q hr hq hwr hwq
  obtain ⟨i, hi, hir, -, -⟩ := decode_of_row hr hwr
  obtain ⟨j, hj, hjq, -, -⟩ := decode_of_row hq hwq
  have hij : i = j := Except.ok.inj (hi.symm.trans hj)
  rw [eq_row_of_mem_opcodeTable hr, eq_row_of_mem_opcodeTable hq, ← hir, ← hjq, hij]

/-- Settles O6: the decoder evaluates. -/
theorem listedWordsDecode : Obligations.ListedWordsDecode := by
  unfold Obligations.ListedWordsDecode
  decide

/-! ### The assembler (R88) -/

/-- The suffix rule of R88, by mnemonic. -/
theorem AsmLine.suffixOk_iff (l : AsmLine) :
    l.suffixOk = true ↔ l.suffix = none ∨ (l.suffix = some .restart ∧ l.mnemonic = .crcSpan) ∨
      (l.suffix = some .withCrc ∧
        l.mnemonic ∈ [Mnemonic.frmBuildShort, .frmBuildWrite, .frmBuildNormal]) := by
  obtain ⟨m, suffix, -⟩ := l
  revert m suffix
  have h : ∀ m : Mnemonic, ∀ x ∈ [none, some Suffix.restart, some .withCrc],
      (AsmLine.suffixOk ⟨m, x, none⟩ = true ↔ x = none ∨ (x = some .restart ∧ m = .crcSpan) ∨
        (x = some .withCrc ∧ m ∈ [Mnemonic.frmBuildShort, .frmBuildWrite, .frmBuildNormal])) := by
    intro m
    cases m <;> decide
  intro m x
  refine h m x ?_
  obtain _ | ⟨_ | _⟩ := x <;> decide

theorem Mnemonic.takesOperand_iff (m : Mnemonic) :
    m.takesOperand = true ↔ m ∈ [Mnemonic.crcByte, .decPush, .frmWord] := by
  cases m <;> decide

/-- The operand rules of R88, by mnemonic. -/
theorem AsmLine.operandOk_iff (l : AsmLine) :
    l.operandPresenceOk = true ∧ l.operandRangeOk = true ↔
      (l.mnemonic ∈ [Mnemonic.crcByte, .decPush, .frmWord] ∧ ∃ n, n < 256 ∧ l.operand = some n) ∨
      (l.mnemonic ∉ [Mnemonic.crcByte, .decPush, .frmWord] ∧ l.operand = none) := by
  rw [← Mnemonic.takesOperand_iff, AsmLine.operandPresenceOk, AsmLine.operandRangeOk]
  cases l.operand with
  | none => simp
  | some n =>
    cases l.mnemonic.takesOperand <;> simp

theorem AsmLine.wellFormed_iff (l : AsmLine) :
    l.wellFormed = true ↔
      l.suffixOk = true ∧ l.operandPresenceOk = true ∧ l.operandRangeOk = true := by
  simp only [AsmLine.wellFormed, Bool.and_eq_true, and_assoc]

/-- A mnemonic that is given a suffix has the flag F[0]. -/
theorem AsmLine.isSome_suffix_of_suffixOk {l : AsmLine} (h : l.suffixOk = true)
    (hs : l.suffix.isSome = true) : l.mnemonic.suffix.isSome = true := by
  obtain hno | heq : l.suffix = none ∨ l.suffix = l.mnemonic.suffix := by
    simpa [AsmLine.suffixOk] using h
  · simp [hno] at hs
  · rwa [← heq]

/-- The fields of the word of a well-formed line. -/
theorem assemble_of_wellFormed {l : AsmLine} (h : l.wellFormed = true) :
    ∃ w, assemble l = some w ∧ opField w = l.mnemonic.op ∧
      flagField w = (if l.suffix.isSome then 1 else 0) ∧ reservedField w = 0 ∧
      (immField w).toNat = l.operand.getD 0 := by
  obtain ⟨hs, hpres, hrange⟩ := l.wellFormed_iff.1 h
  obtain ⟨hop, hflag, hrsv, himm⟩ := Laws.encoded_fields
    (l.mnemonic.instr l.suffix.isSome (BitVec.ofNat 8 (l.operand.getD 0)))
  rw [Mnemonic.mnemonic_instr] at hop
  rw [Mnemonic.flag_instr] at hflag
  rw [Mnemonic.imm_instr] at himm
  refine ⟨_, if_pos h, hop, hflag.trans ?flag, hrsv, (congrArg BitVec.toNat himm).trans ?imm⟩
  case flag =>
    by_cases hsuf : l.suffix.isSome = true
    · rw [if_pos (AsmLine.isSome_suffix_of_suffixOk hs hsuf), flagByte]
    · simp [hsuf, flagByte]
  case imm =>
    unfold AsmLine.operandPresenceOk at hpres
    unfold AsmLine.operandRangeOk at hrange
    cases hopd : l.operand with
    | none =>
      rw [hopd] at hpres
      simp_all
    | some n =>
      rw [hopd] at hpres hrange
      have htakes : l.mnemonic.takesOperand = true := by simpa using hpres.symm
      have hn : n < 256 := by simpa using hrange
      rw [if_pos htakes]
      exact Nat.mod_eq_of_lt hn

theorem Instr.toAsm_wellFormed (i : Instr) : i.toAsm.wellFormed = true := by
  refine (AsmLine.wellFormed_iff _).2 ⟨?_, ?_, ?_⟩
  · cases i with
    | crcSpan f | frmBuildShort f | frmBuildWrite f | frmBuildNormal f => cases f <;> rfl
    | _ => rfl
  · cases i <;> rfl
  · cases i with
    | crcByte b | decPush b | frmWord b => exact decide_eq_true b.isLt
    | _ => rfl

/-- The line of a command says its flag and its operand. -/
theorem Instr.instr_toAsm (i : Instr) :
    i.toAsm.mnemonic.instr i.toAsm.suffix.isSome (BitVec.ofNat 8 (i.toAsm.operand.getD 0)) = i := by
  cases i with
  | crcSpan f | frmBuildShort f | frmBuildWrite f | frmBuildNormal f => cases f <;> rfl
  | crcByte b | decPush b | frmWord b =>
    simp [Instr.toAsm, Instr.mnemonic, Mnemonic.takesOperand, Mnemonic.instr, Instr.imm]
  | _ => rfl

theorem assemble_toAsm (i : Instr) : assemble i.toAsm = some (encode i) := by
  rw [assemble, if_pos i.toAsm_wellFormed, i.instr_toAsm]

/-- Settles O5: the checks of a line, said by mnemonic, and the fields of the word it makes. -/
theorem assemblerFollowsItsSyntax : Obligations.AssemblerFollowsItsSyntax := by
  refine ⟨?lines, by decide, by decide, by decide, by decide, by decide, assemble_toAsm⟩
  case lines =>
    intro l suffixFits operandFits
    have hfits : suffixFits ∧ operandFits ↔ l.wellFormed = true := by
      rw [l.wellFormed_iff, l.suffixOk_iff, l.operandOk_iff]
    rw [hfits]
    exact ⟨assemble_of_wellFormed, fun h => if_neg h⟩

end Sys2Proof
end

section
/-! PROOF. What a command can do, said once for every command (`Ends`), and the rules over all
commands that follow from it: the codes of each command (R211), what no command writes (R7, R20, R24)
and which commands write the RAM (R143, R178). -/

namespace Sys2Proof.Machine

/-! ### How a command ends -/

/-- `Ends s i t`: command `i`, run from `s`, ends in `t`; one constructor per outcome of its rule. -/
inductive Ends (s : State) : Instr → State → Prop where
  | nop : Ends s .nop (s.complete .ok)
  | softReset : Ends s .softReset s.softReset
  | clrErr : Ends s .clrErr (State.complete { s with err := false } .ok)
  | crcInit : Ends s .crcInit (State.complete { s with crcAcc := 0xFFFF } .ok)
  | crcByte (b : Byte) :
      Ends s (.crcByte b) (State.complete { s with crcAcc := crcStep s.crcAcc b } .ok)
  | crcSpan (i : Bool) (hfits : s.arg0.toNat + s.arg1.toNat ≤ s.params.ramSize) :
      Ends s (.crcSpan i) (State.complete
        { s with crcAcc := (s.ram.bytes s.arg0.toNat s.arg1.toNat).foldl crcStep
                   (if i then 0xFFFF else s.crcAcc) } .ok)
  | crcSpanPast (i : Bool) (hpast : s.params.ramSize < s.arg0.toNat + s.arg1.toNat) :
      Ends s (.crcSpan i) (s.complete .errBounds)
  | encStart (hfits : s.arg0.toNat + s.arg1.toNat ≤ s.params.ramSize) :
      Ends s .encStart (s.encStarted.complete .ok)
  | encStartPast (hpast : s.params.ramSize < s.arg0.toNat + s.arg1.toNat) :
      Ends s .encStart (s.complete .errBounds)
  | pullDone (hst : s.encSt = .done) : Ends s .encPull (s.complete .encEnd)
  | pullTerm (hst : s.encSt = .term) :
      Ends s .encPull (State.complete { s with encOut := 0x00, encSt := .done } .encByte)
  | pullCode {l : Nat} {z : Bool} (hst : s.encSt = .code)
      (hscan : s.scanZero s.encPtr.toNat (min 254 s.encRem.toNat) = .ok (l, z)) :
      Ends s .encPull ((s.pullCode l z).complete .encByte)
  | pullData (hst : s.encSt = .data) (hlt : s.encPtr.toNat < s.params.ramSize) :
      Ends s .encPull ((s.pullData (s.ramByte s.encPtr.toNat)).complete .encByte)
  | decReset (hfits : s.arg0.toNat + s.arg1.toNat ≤ s.params.ramSize) :
      Ends s .decReset (s.decDestSet.complete .ok)
  | decResetPast (hpast : s.params.ramSize < s.arg0.toNat + s.arg1.toNat) :
      Ends s .decReset (s.complete .errBounds)
  | pushStray (hst : s.decSt = .idle) : Ends s (.decPush 0x00) (s.complete .ok)
  | pushFrameStart {b : Byte} (hst : s.decSt = .idle) (hb : b ≠ 0x00) :
      Ends s (.decPush b)
        ((State.enterBlock { s with decLen := 0, decOvf := false } b).complete .decStart)
  | pushFrameEnd (hst : s.decSt ≠ .idle) (hcnt : s.decCnt = 0) (hovf : s.decOvf = false) :
      Ends s (.decPush 0x00) (s.toIdle.complete .decComplete)
  | pushOvfEnd (hst : s.decSt ≠ .idle) (hcnt : s.decCnt = 0) (hovf : s.decOvf = true) :
      Ends s (.decPush 0x00) (State.complete { s.toIdle with decLen := 0 } .errOvfEnd)
  | pushMalformed (hst : s.decSt ≠ .idle) (hcnt : s.decCnt ≠ 0) :
      Ends s (.decPush 0x00) (State.complete { s.toIdle with decLen := 0 } .errMalformed)
  | pushLiteral {b : Byte} {u : State} {c : Code} (hst : s.decSt ≠ .idle) (hcnt : s.decCnt ≠ 0)
      (hb : b ≠ 0x00) (hemit : s.emit b = .ok (u, c)) :
      Ends s (.decPush b) (State.complete { u with decCnt := s.decCnt - 1 } c)
  | pushAfterShort {b : Byte} {u : State} {c : Code} (hst : s.decSt = .block) (hcnt : s.decCnt = 0)
      (hb : b ≠ 0x00) (hemit : s.emit 0x00 = .ok (u, c)) :
      Ends s (.decPush b) ((u.enterBlock b).complete c)
  | pushAfterFull {b : Byte} (hst : s.decSt = .pblock) (hcnt : s.decCnt = 0) (hb : b ≠ 0x00) :
      Ends s (.decPush b) ((s.enterBlock b).complete .ok)
  | buildConfig (sh : Shape) (c : Bool) (hw : ¬LegalWidth s) :
      Ends s (sh.build c) (s.complete .errConfig)
  | buildPast (sh : Shape) (c : Bool) (hw : LegalWidth s)
      (hpast : s.params.ramSize <
        s.arg0.toNat + (frameBytes sh.tail s.cfgWidth.toNat c (sh.dataWords s)).length) :
      Ends s (sh.build c) (s.complete .errBounds)
  | built (sh : Shape) (c : Bool) (hw : LegalWidth s)
      (hfits : s.arg0.toNat + (frameBytes sh.tail s.cfgWidth.toNat c (sh.dataWords s)).length
        ≤ s.params.ramSize) :
      Ends s (sh.build c)
        ((s.frameBuilt (frameBytes sh.tail s.cfgWidth.toNat c (sh.dataWords s))
          (frameData s.cfgWidth.toNat (sh.dataWords s))).complete .ok)
  | verifyConfig (sh : Shape) (hw : ¬LegalWidth s) :
      Ends s sh.verify (s.rejectFrame.complete .errConfig)
  | verifyPast (sh : Shape) (hw : LegalWidth s)
      (hpast : s.params.ramSize <
        s.arg0.toNat + sh.words s.cfgChannels.toNat * s.cfgWidth.toNat) :
      Ends s sh.verify (s.rejectFrame.complete .errBounds)
  | verified (sh : Shape) (hw : LegalWidth s)
      (hfits : s.arg0.toNat + sh.words s.cfgChannels.toNat * s.cfgWidth.toNat ≤ s.params.ramSize)
      (data : List Byte) :
      Ends s sh.verify
        (((s.measureFrame (sh.words s.cfgChannels.toNat * s.cfgWidth.toNat) data).acceptFrame
          data).complete .ok)
  | mismatch (sh : Shape) (hw : LegalWidth s)
      (hfits : s.arg0.toNat + sh.words s.cfgChannels.toNat * s.cfgWidth.toNat ≤ s.params.ramSize)
      (data : List Byte) :
      Ends s sh.verify
        ((s.measureFrame (sh.words s.cfgChannels.toNat * s.cfgWidth.toNat) data).rejectFrame.complete
          .errCrc)
  | wordConfig (j : Byte) (hw : ¬LegalWidth s) : Ends s (.frmWord j) (s.complete .errConfig)
  | wordPast (j : Byte) (hw : LegalWidth s)
      (hpast : s.params.ramSize <
        s.arg0.toNat + j.toNat * s.cfgWidth.toNat + s.cfgWidth.toNat) :
      Ends s (.frmWord j) (s.complete .errBounds)
  | wordRead (j : Byte) (hw : LegalWidth s)
      (hfits : s.arg0.toNat + j.toNat * s.cfgWidth.toNat + s.cfgWidth.toNat ≤ s.params.ramSize) :
      Ends s (.frmWord j)
        ((s.wordRead s.cfgWidth.toNat (s.ram.bytes (s.arg0.toNat + j.toNat * s.cfgWidth.toNat)
          s.cfgWidth.toNat)).complete .ok)

section
variable {s t : State}

theorem ends_of_crcSpan {i : Bool} (h : exec (.crcSpan i) s = .next t) : Ends s (.crcSpan i) t := by
  obtain hfits | hpast := le_or_gt (s.arg0.toNat + s.arg1.toNat) s.params.ramSize
  · rw [exec_crcSpan_of_le i hfits, finish_eq_next] at h
    exact h ▸ .crcSpan i hfits
  · rw [exec_crcSpan_of_lt i hpast, raise_eq_next] at h
    exact h ▸ .crcSpanPast i hpast

theorem ends_of_encStart (h : exec .encStart s = .next t) : Ends s .encStart t := by
  obtain hfits | hpast := le_or_gt (s.arg0.toNat + s.arg1.toNat) s.params.ramSize
  · rw [exec_encStart_of_le hfits, finish_eq_next] at h
    exact h ▸ .encStart hfits
  · rw [exec_encStart_of_lt hpast, raise_eq_next] at h
    exact h ▸ .encStartPast hpast

theorem ends_of_encPull (h : exec .encPull s = .next t) : Ends s .encPull t := by
  obtain ⟨hst, rfl⟩ | ⟨hst, rfl⟩ | ⟨hst, l, z, hscan, rfl⟩ | ⟨hst, hlt, rfl⟩ :=
    execEncPull_cases h
  · exact .pullDone hst
  · exact .pullTerm hst
  · exact .pullCode hst hscan
  · exact .pullData hst hlt

theorem ends_of_decReset (h : exec .decReset s = .next t) : Ends s .decReset t := by
  obtain hfits | hpast := le_or_gt (s.arg0.toNat + s.arg1.toNat) s.params.ramSize
  · rw [exec_decReset_of_le hfits, finish_eq_next] at h
    exact h ▸ .decReset hfits
  · rw [exec_decReset_of_lt hpast, raise_eq_next] at h
    exact h ▸ .decResetPast hpast

/-- The rows of R140. -/
theorem ends_of_decPush {b : Byte} (h : exec (.decPush b) s = .next t) : Ends s (.decPush b) t := by
  by_cases hst : s.decSt = .idle
  case pos =>
    by_cases hb : b = 0x00
    · rw [hb, exec_decPush_stray hst, finish_eq_next] at h
      exact hb ▸ h ▸ .pushStray hst
    · rw [exec_decPush_frameStart hst hb, State.frameStart, finish_eq_next] at h
      exact h ▸ .pushFrameStart hst hb
  case neg =>
    by_cases hcnt : s.decCnt = 0 <;> by_cases hb : b = 0x00
    · subst hb
      rw [exec_decPush_frameEnd hst hcnt, State.frameEnd] at h
      cases hovf : s.decOvf with
      | false =>
        rw [hovf, if_neg Bool.false_ne_true, finish_eq_next] at h
        exact h ▸ .pushFrameEnd hst hcnt hovf
      | true =>
        rw [hovf, if_pos rfl, raise_eq_next] at h
        exact h ▸ .pushOvfEnd hst hcnt hovf
    · cases hblock : s.decSt with
      | idle => exact absurd hblock hst
      | block =>
        rw [exec_decPush_afterShort hblock hcnt hb, State.afterShort] at h
        obtain ⟨⟨u, c⟩, hemit, hk⟩ := orFault_eq_next h
        exact finish_eq_next.1 hk ▸ .pushAfterShort hblock hcnt hb hemit
      | pblock =>
        rw [exec_decPush_afterFull hblock hcnt hb, State.afterFull, finish_eq_next] at h
        exact h ▸ .pushAfterFull hblock hcnt hb
    · subst hb
      rw [exec_decPush_malformed hst hcnt, State.malformed, raise_eq_next] at h
      exact h ▸ .pushMalformed hst hcnt
    · rw [exec_decPush_literal hst hcnt hb, State.literal] at h
      obtain ⟨⟨u, c⟩, hemit, hk⟩ := orFault_eq_next h
      exact finish_eq_next.1 hk ▸ .pushLiteral hst hcnt hb hemit

theorem ends_of_build (sh : Shape) {c : Bool} (h : exec (sh.build c) s = .next t) :
    Ends s (sh.build c) t := by
  by_cases hw : LegalWidth s
  case neg =>
    rw [exec_build, State.frameBuild, frameWidth_of_not_legal hw, raise_eq_next] at h
    exact h ▸ .buildConfig sh c hw
  case pos =>
    obtain hfits | hpast := le_or_gt
      (s.arg0.toNat + (frameBytes sh.tail s.cfgWidth.toNat c (sh.dataWords s)).length)
      s.params.ramSize
    · rw [exec_build_of_le hw hfits, finish_eq_next] at h
      exact h ▸ .built sh c hw hfits
    · rw [exec_build_of_lt hw hpast, raise_eq_next] at h
      exact h ▸ .buildPast sh c hw hpast

theorem ends_of_verify (sh : Shape) (h : exec sh.verify s = .next t) : Ends s sh.verify t := by
  by_cases hw : LegalWidth s
  case neg =>
    rw [exec_verify, State.frameVerify, frameWidth_of_not_legal hw, raise_eq_next] at h
    exact h ▸ .verifyConfig sh hw
  case pos =>
    rw [exec_verify] at h
    obtain hfits | hpast := le_or_gt
      (s.arg0.toNat + sh.words s.cfgChannels.toNat * s.cfgWidth.toNat) s.params.ramSize
    · rw [frameVerify_of_le hw (Nat.one_le_of_lt (sh.words_bounds _).1) hfits] at h
      unfold State.judgeFrame at h
      split at h
      · exact finish_eq_next.1 h ▸ .verified sh hw hfits _
      · exact raise_eq_next.1 h ▸ .mismatch sh hw hfits _
    · rw [frameVerify_of_lt hw hpast, raise_eq_next] at h
      exact h ▸ .verifyPast sh hw hpast

theorem ends_of_frmWord {j : Byte} (h : exec (.frmWord j) s = .next t) : Ends s (.frmWord j) t := by
  by_cases hw : LegalWidth s
  case neg =>
    change execFrmWord j s = _ at h
    rw [execFrmWord, frameWidth_of_not_legal hw, raise_eq_next] at h
    exact h ▸ .wordConfig j hw
  case pos =>
    obtain hfits | hpast := le_or_gt
      (s.arg0.toNat + j.toNat * s.cfgWidth.toNat + s.cfgWidth.toNat) s.params.ramSize
    · rw [exec_frmWord_of_le hw hfits, finish_eq_next] at h
      exact h ▸ .wordRead j hw hfits
    · rw [exec_frmWord_of_lt hw hpast, raise_eq_next] at h
      exact h ▸ .wordPast j hw hpast

/-- Every outcome of every command is listed. -/
theorem ends_of_exec {i : Instr} (h : exec i s = .next t) : Ends s i t := by
  cases i with
  | nop => exact finish_eq_next.1 h ▸ .nop
  | softReset => cases h; exact .softReset
  | clrErr => exact finish_eq_next.1 h ▸ .clrErr
  | crcInit => exact finish_eq_next.1 h ▸ .crcInit
  | crcByte b => exact finish_eq_next.1 h ▸ .crcByte b
  | crcSpan i => exact ends_of_crcSpan h
  | encStart => exact ends_of_encStart h
  | encPull => exact ends_of_encPull h
  | decReset => exact ends_of_decReset h
  | decPush b => exact ends_of_decPush h
  | frmBuildShort c => exact ends_of_build .short h
  | frmBuildWrite c => exact ends_of_build .writeOne h
  | frmBuildNormal c => exact ends_of_build .normal h
  | frmVerifyShort => exact ends_of_verify .short h
  | frmVerifyWrite => exact ends_of_verify .writeOne h
  | frmVerifyNormal => exact ends_of_verify .normal h
  | frmWord j => exact ends_of_frmWord h

end

/-! ### emit, whatever the state -/

theorem onlyDecodingChanged_emit {s u : State} {v : Byte} {c : Code} (h : s.emit v = .ok (u, c)) :
    OnlyDecodingChanged s u := by
  obtain ⟨-, -, -, -, rfl⟩ | ⟨-, -, rfl⟩ := emit_cases h <;> rfl

theorem emit_code {s u : State} {v : Byte} {c : Code} (h : s.emit v = .ok (u, c)) :
    c = .decData ∨ c = .errOverflow :=
  (emit_cases h).imp (fun ⟨_, _, hc, _⟩ => hc) (fun ⟨_, hc, _⟩ => hc)

/-! ### The codes (R211) -/

theorem isError_iff_le_toByte (c : Code) : c.isError = true ↔ 0x80 ≤ c.toByte.toNat := by
  cases c <;> decide

theorem Ends.code_mem {i : Instr} {s t : State} (h : Ends s i t) : t.code ∈ reportsOf i.mnemonic := by
  cases h with
  | pushLiteral _ _ _ hemit | pushAfterShort _ _ _ hemit =>
    obtain rfl | rfl := emit_code hemit <;> simp [reportsOf, Instr.mnemonic]
  | buildConfig sh | buildPast sh | built sh | verifyConfig sh | verifyPast sh | verified sh
  | mismatch sh => cases sh <;> simp [reportsOf, Shape.build, Shape.verify, Instr.mnemonic]
  | softReset => simp [reportsOf, Instr.mnemonic, State.softReset, State.powerOn]
  | _ => simp [reportsOf, Instr.mnemonic]

/-- An illegal word reports ERR_ILLEGAL alone. -/
theorem runWord_of_no_command {w : Word} (h : ∀ i, decode w ≠ .ok i) (s : State) :
    runWord w s = .next (s.complete .errIllegal) := by
  cases hw : decode w with
  | ok i => exact absurd hw (h i)
  | error e => exact runWord_of_decode_eq_error hw s

/-- Settles O55: the values by evaluation, the codes of each command from its outcomes. -/
theorem codesAreThoseOfTheTable : Obligations.CodesAreThoseOfTheTable := by
  refine ⟨by decide, isError_iff_le_toByte, fun i s t h => (ends_of_exec h).code_mem,
    fun w s t hno h => ?_⟩
  rw [runWord_of_no_command hno] at h
  cases h
  rfl

/-! ### How a step ends -/

/-- A word runs as the command it decodes to, or reports ERR_ILLEGAL. -/
theorem runWord_cases {w : Word} {s u : State} (h : runWord w s = .next u) :
    (∃ i, exec i s = .next u) ∨ u = s.complete .errIllegal := by
  cases hw : decode w with
  | ok i =>
    rw [runWord, hw] at h
    exact .inl ⟨i, h⟩
  | error e =>
    rw [runWord_of_decode_eq_error hw] at h
    cases h
    exact .inr rfl

/-- `StepEnds s t`: a step from `s` ends in `t`; `rest` are the accesses behind the one performed. -/
inductive StepEnds (s : State) : State → Prop where
  | silent : StepEnds s s
  | answered (rest : List Access) (b : BusStatus) (d : Word) :
      StepEnds s (State.answer { s with host := rest } b d)
  | ran {rest : List Access} {i : Instr} {u : State} (hexec : exec i { s with host := rest } = .next u) :
      StepEnds s u.acked
  | illegal (rest : List Access) :
      StepEnds s (State.complete { s with host := rest } .errIllegal).acked
  | storedReg (rest : List Access) (r : Reg) (v : Word) :
      StepEnds s (State.writeReg { s with host := rest } r v).acked
  | storedByte (rest : List Access) {a : Nat} (v : Byte) (hlt : a < s.params.ramSize) :
      StepEnds s (State.acked { s with host := rest, ram := s.ram.write a v })

/-- Every way a step can end is listed. -/
theorem stepEnds_of_step {s t : State} (h : step s = .next t) : StepEnds s t := by
  obtain ⟨-, rfl⟩ | ⟨access, rest, -, h⟩ := step_cases h
  · exact .silent
  unfold performAccess at h
  split at h <;> split at h
  · cases h
    exact .answered rest _ _
  · next off _ =>
    cases h
    obtain ⟨b, d, hread⟩ := hostRead_eq off _ { s with host := rest }
    exact hread ▸ .answered rest b d
  · cases h
    exact .answered rest _ _
  · obtain ⟨-, -, u, hu, rfl⟩ | ⟨r, -, -, -, rfl⟩ | ⟨a, -, -, hlt, rfl⟩ | ⟨b, rfl⟩ :=
      hostWrite_cases h
    · obtain ⟨i, hexec⟩ | rfl := runWord_cases hu
      · exact .ran hexec
      · exact .illegal rest
    · exact .storedReg rest r _
    · exact .storedByte rest _ hlt
    · exact .answered rest b 0

/-! ### What no command writes (R7, R20, R24) -/

/-- `t` has the operands of `s`: the parameters, ARG0 to ARG3 and CFG. -/
structure KeepsOperands (s t : State) : Prop where
  params : t.params = s.params
  arg0 : t.arg0 = s.arg0
  arg1 : t.arg1 = s.arg1
  arg2 : t.arg2 = s.arg2
  arg3 : t.arg3 = s.arg3
  width : t.cfgWidth = s.cfgWidth
  channels : t.cfgChannels = s.cfgChannels

theorem OnlyEncoderChanged.keepsOperands {s u : State} (h : OnlyEncoderChanged s u) (c : Code) :
    KeepsOperands s (u.complete c) := by
  rw [h]
  exact ⟨rfl, rfl, rfl, rfl, rfl, rfl, rfl⟩

theorem OnlyDecodingChanged.keepsOperands {s u : State} (h : OnlyDecodingChanged s u) (c : Code) :
    KeepsOperands s (u.complete c) := by
  rw [h]
  exact ⟨rfl, rfl, rfl, rfl, rfl, rfl, rfl⟩

theorem Ends.keepsOperands {i : Instr} {s t : State} (h : Ends s i t) (hi : i ≠ .softReset) :
    KeepsOperands s t := by
  cases h with
  | softReset => exact absurd rfl hi
  | pullCode => exact (onlyEncoderChanged_pullCode s _ _).keepsOperands _
  | pullData => exact (onlyEncoderChanged_pullData s _).keepsOperands _
  | pushFrameStart =>
    have hcleared : OnlyDecodingChanged s { s with decLen := 0, decOvf := false } := rfl
    exact (hcleared.trans (onlyDecodingChanged_enterBlock _ _)).keepsOperands _
  | pushLiteral _ _ _ hemit =>
    have hcounted (u : State) : OnlyDecodingChanged u { u with decCnt := s.decCnt - 1 } := rfl
    exact ((onlyDecodingChanged_emit hemit).trans (hcounted _)).keepsOperands _
  | pushAfterShort _ _ _ hemit =>
    exact ((onlyDecodingChanged_emit hemit).trans
      (onlyDecodingChanged_enterBlock _ _)).keepsOperands _
  | pushAfterFull => exact (onlyDecodingChanged_enterBlock s _).keepsOperands _
  | _ => exact ⟨rfl, rfl, rfl, rfl, rfl, rfl, rfl⟩

/-- Settles O57: of the outcomes only that of SOFT_RESET touches an operand. -/
theorem commandsWriteNoOperands : Obligations.CommandsWriteNoOperands := by
  intro i s t hi h
  have hkeep := (ends_of_exec h).keepsOperands hi
  exact ⟨hkeep.arg0, hkeep.arg1, hkeep.arg2, hkeep.arg3, hkeep.width, hkeep.channels⟩

/-- SOFT_RESET keeps the parameters too: they are no register. -/
theorem exec_params_eq {i : Instr} {s t : State} (h : exec i s = .next t) :
    t.params = s.params := by
  by_cases hi : i = .softReset
  · rw [hi, exec_softReset] at h
    cases h
    rfl
  · exact ((ends_of_exec h).keepsOperands hi).params

theorem writeReg_params (s : State) (r : Reg) (v : Word) : (s.writeReg r v).params = s.params := by
  cases r <;> rfl

/-- Settles O56: of a step's parts only a command could write a parameter, and none does. -/
theorem parametersNeverChange : Obligations.ParametersNeverChange := by
  intro s t h
  cases stepEnds_of_step h with
  | silent => rfl
  | ran hexec =>
    have hparams := exec_params_eq hexec
    exact hparams
  | storedReg rest r v => exact writeReg_params _ r v
  | answered | illegal | storedByte => rfl

/-! ### Which commands write the RAM (R143, R178) -/

theorem Ends.ram_eq {i : Instr} {s t : State} (h : Ends s i t)
    (hi : i.mnemonic ∉ [Mnemonic.decPush, .frmBuildShort, .frmBuildWrite, .frmBuildNormal]) :
    t.ram = s.ram := by
  cases h with
  | pushStray | pushFrameStart | pushFrameEnd | pushOvfEnd | pushMalformed | pushLiteral
  | pushAfterShort | pushAfterFull => exact absurd (by simp [Instr.mnemonic]) hi
  | built sh => exact absurd (by cases sh <;> simp [Shape.build, Instr.mnemonic]) hi
  | pullCode | pullData => simp
  | _ => rfl

/-- Settles O58: the outcomes of the other commands leave the RAM as it is, cell by cell. -/
theorem onlyPushAndBuildWriteRam : Obligations.OnlyPushAndBuildWriteRam := by
  intro i s t hi h x
  rw [State.ramByte, (ends_of_exec h).ram_eq hi]
  rfl

end Sys2Proof.Machine
end

section
/-! PROOF. When a command stops the machine (spec/00_scope.md R13, log 8), and the invariant of the
block (spec/10_state.md R31, R35): reset meets it, every step keeps it, and under it no step stops. -/

namespace Sys2Proof.Machine

/-! ### Faults (R13, R60) -/

/-- `r` is no refusal, and where it is a fault, the address is past the RAM of `s`. -/
def StopsOutside (s : State) (r : Result) : Prop :=
  (∀ e, r ≠ .refused e) ∧ ∀ f, r = .fault f → ∃ a, f = .ramOutOfRange a ∧ s.params.ramSize ≤ a

section
variable {s : State}

theorem StopsOutside.of_finish (u : State) (c : Code) : StopsOutside s (u.finish c) :=
  ⟨nofun, nofun⟩

theorem StopsOutside.of_ite {p : Prop} [Decidable p] {r r' : Result} (h : StopsOutside s r)
    (h' : StopsOutside s r') : StopsOutside s (if p then r else r') := by
  split
  · exact h
  · exact h'

/-- A fallible read or write stops where it fails itself, when its continuation ends normally. -/
theorem StopsOutside.of_orFault {α : Type} {x : Except Fault α} {k : α → Result}
    (hx : ∀ f, x = .error f → ∃ a, f = .ramOutOfRange a ∧ s.params.ramSize ≤ a)
    (hk : ∀ v, StopsOutside s (k v)) : StopsOutside s (orFault x k) := by
  cases x with
  | error f => exact ⟨nofun, fun g hg => by cases hg; exact hx f rfl⟩
  | ok v => exact hk v

theorem memRead_eq_error {a : Nat} {f : Fault} (h : s.memRead a = .error f) :
    ∃ b, f = .ramOutOfRange b ∧ s.params.ramSize ≤ b := by
  unfold State.memRead at h
  split at h
  · cases h
  · cases h
    exact ⟨a, rfl, by omega⟩

theorem scanZero_eq_error {a m : Nat} {f : Fault} (h : s.scanZero a m = .error f) :
    ∃ b, f = .ramOutOfRange b ∧ s.params.ramSize ≤ b := by
  induction m generalizing a with
  | zero => cases h
  | succ m ih =>
    rw [State.scanZero] at h
    split at h
    · next hread => cases h; exact memRead_eq_error hread
    · split_ifs at h
      split at h
      · next hscan => cases h; exact ih hscan
      · cases h

theorem emit_eq_error {v : Byte} {f : Fault} (h : s.emit v = .error f) :
    ∃ b, f = .ramOutOfRange b ∧ s.params.ramSize ≤ b := by
  unfold State.emit State.memWrite at h
  split_ifs at h with hroom hlt
  · cases h
    exact ⟨_, rfl, not_lt.1 hlt⟩

theorem stopsOutside_encPull (s : State) : StopsOutside s (exec .encPull s) := by
  change StopsOutside s (execEncPull s)
  unfold execEncPull
  split
  · exact .of_finish _ _
  · exact .of_finish _ _
  · exact .of_orFault (fun _ => scanZero_eq_error) fun _ => .of_finish _ _
  · exact .of_orFault (fun _ => memRead_eq_error) fun _ => .of_finish _ _

theorem stopsOutside_decPush (b : Byte) (s : State) : StopsOutside s (exec (.decPush b) s) := by
  have hend : StopsOutside s s.frameEnd := .of_ite (.of_finish _ _) (.of_finish _ _)
  have hliteral : StopsOutside s (s.literal b) :=
    .of_orFault (fun _ => emit_eq_error) fun _ => .of_finish _ _
  have hshort : StopsOutside s (s.afterShort b) :=
    .of_orFault (fun _ => emit_eq_error) fun _ => .of_finish _ _
  have hinside := StopsOutside.of_ite (p := b = 0x00) (.of_finish _ _ : StopsOutside s s.malformed)
    hliteral
  change StopsOutside s (execDecPush b s)
  unfold execDecPush
  split
  · exact .of_ite (.of_finish _ _) (.of_finish _ _)
  · exact .of_ite (.of_ite hend hshort) hinside
  · exact .of_ite (.of_ite hend (.of_finish _ _)) hinside

/-! ### Commands that answer a next state -/

theorem exec_encPull_next (hinv : EncInv s) : ∃ t, exec .encPull s = .next t := by
  have hcur := hinv.cursorInRam
  cases hst : s.encSt with
  | done => exact ⟨_, exec_encPull_done hst⟩
  | term => exact ⟨_, exec_encPull_term hst⟩
  | code =>
    obtain ⟨l, z, hscan, -⟩ := scanZero_ok (s := s) (a := s.encPtr.toNat)
      (m := min 254 s.encRem.toNat) (by omega)
    exact ⟨_, exec_encPull_code hst hscan⟩
  | data =>
    have := hinv.dataBlock hst
    exact ⟨_, exec_encPull_data hst (by omega)⟩

theorem exec_decPush_next (b : Byte) (hinv : DecInv s) : ∃ t, exec (.decPush b) s = .next t := by
  obtain ⟨-, t, ⟨hexec, -⟩, -⟩ := decPushFollowsItsTable b s hinv
  exact ⟨t, hexec⟩

theorem exec_build_next (sh : Shape) (c : Bool) (s : State) :
    ∃ t, exec (sh.build c) s = .next t := by
  by_cases hw : LegalWidth s
  · obtain ⟨hbuilt, hpast⟩ := build_buildsFrame sh c hw
    obtain hle | hlt := le_or_gt (s.arg0.toNat + (_ ++ _ : List Byte).length) s.params.ramSize
    · obtain ⟨t, ⟨hexec, -⟩, -⟩ := hbuilt hle
      exact ⟨t, hexec⟩
    · obtain ⟨t, hexec, -⟩ := hpast hlt
      exact ⟨t, hexec⟩
  · obtain ⟨t, hexec, -⟩ := build_raises_errConfig sh c hw
    exact ⟨t, hexec⟩

theorem exec_verify_next (sh : Shape) (s : State) : ∃ t, exec sh.verify s = .next t := by
  by_cases hw : LegalWidth s
  · rw [exec_verify]
    obtain hle | hlt := le_or_gt
      (s.arg0.toNat + sh.words s.cfgChannels.toNat * s.cfgWidth.toNat) s.params.ramSize
    · rw [frameVerify_of_le hw (Nat.one_le_of_lt (sh.words_bounds _).1) hle]
      unfold State.judgeFrame
      split
      · exact ⟨_, rfl⟩
      · exact ⟨_, rfl⟩
    · exact ⟨_, frameVerify_of_lt hw hlt⟩
  · obtain ⟨t, hexec, -⟩ := verify_raises_errConfig sh hw
    exact ⟨t, hexec⟩

theorem exec_frmWord_next (j : Byte) (s : State) : ∃ t, exec (.frmWord j) s = .next t := by
  by_cases hw : LegalWidth s
  · obtain hle | hlt := le_or_gt
      (s.arg0.toNat + j.toNat * s.cfgWidth.toNat + s.cfgWidth.toNat) s.params.ramSize
    · exact ⟨_, exec_frmWord_of_le hw hle⟩
    · exact ⟨_, exec_frmWord_of_lt hw hlt⟩
  · obtain ⟨t, hexec, -⟩ := frmWord_raises_errConfig j hw
    exact ⟨t, hexec⟩

/-- Only the two commands with a cursor of their own need an invariant to complete; the others check
their range first (R68). -/
theorem exec_next {i : Instr} (henc : i = .encPull → EncInv s)
    (hdec : ∀ b, i = .decPush b → DecInv s) : ∃ t, exec i s = .next t := by
  have hspan := le_or_gt (s.arg0.toNat + s.arg1.toNat) s.params.ramSize
  cases i with
  | nop | softReset | clrErr | crcInit | crcByte b => exact ⟨_, rfl⟩
  | crcSpan i =>
    obtain hle | hlt := hspan
    · exact ⟨_, exec_crcSpan_of_le i hle⟩
    · exact ⟨_, exec_crcSpan_of_lt i hlt⟩
  | encStart =>
    obtain hle | hlt := hspan
    · exact ⟨_, exec_encStart_of_le hle⟩
    · exact ⟨_, exec_encStart_of_lt hlt⟩
  | decReset =>
    obtain hle | hlt := hspan
    · exact ⟨_, exec_decReset_of_le hle⟩
    · exact ⟨_, exec_decReset_of_lt hlt⟩
  | encPull => exact exec_encPull_next (henc rfl)
  | decPush b => exact exec_decPush_next b (hdec b rfl)
  | frmBuildShort c => exact exec_build_next .short c s
  | frmBuildWrite c => exact exec_build_next .writeOne c s
  | frmBuildNormal c => exact exec_build_next .normal c s
  | frmVerifyShort => exact exec_verify_next .short s
  | frmVerifyWrite => exact exec_verify_next .writeOne s
  | frmVerifyNormal => exact exec_verify_next .normal s
  | frmWord j => exact exec_frmWord_next j s

theorem stopsOutside_exec (i : Instr) (s : State) : StopsOutside s (exec i s) := by
  by_cases hpull : i = .encPull
  · exact hpull ▸ stopsOutside_encPull s
  by_cases hpush : ∃ b, i = .decPush b
  · obtain ⟨b, rfl⟩ := hpush
    exact stopsOutside_decPush b s
  obtain ⟨t, ht⟩ := exec_next (s := s) (fun h => absurd h hpull) fun b h => absurd ⟨b, h⟩ hpush
  rw [ht]
  exact ⟨nofun, nofun⟩

/-- Settles O60: a command that needs no invariant, or whose invariant holds, answers a next state. -/
theorem faultNeedsABrokenInvariant : Obligations.FaultNeedsABrokenInvariant := by
  intro i s
  obtain ⟨hrefused, hfault⟩ := stopsOutside_exec i s
  refine ⟨hrefused, fun f hf => ⟨hfault f hf, ?_⟩⟩
  by_contra hno
  obtain ⟨hpull, hpush⟩ := not_or.1 hno
  obtain ⟨t, ht⟩ := exec_next (i := i) (s := s) (fun h => not_not.1 fun hinv => hpull ⟨h, hinv⟩)
    fun b h => not_not.1 fun hinv => hpush ⟨⟨b, h⟩, hinv⟩
  cases ht.symm.trans hf

end

/-! ### The encoder invariants (R31) -/

/-- They speak of the parameters and of the cursor alone. -/
theorem EncInv.congr {s t : State} (h : EncInv s) (hparams : t.params = s.params)
    (hst : t.encSt = s.encSt) (hblk : t.encBlk = s.encBlk) (hzero : t.encZero = s.encZero)
    (hptr : t.encPtr = s.encPtr) (hrem : t.encRem = s.encRem) : EncInv t := by
  obtain ⟨hcur, hdata, hahead, hno, hdone⟩ := h
  constructor <;> simp only [hparams, hst, hblk, hzero, hptr, hrem] <;> assumption

/-- Outside a block nothing is counted and no zero is pending. -/
theorem EncInv.of_no_block {s : State} (hcur : s.encPtr.toNat + s.encRem.toNat ≤ s.params.ramSize)
    (hst : s.encSt ≠ .data) (hblk : s.encBlk = 0) (hzero : s.encZero = false)
    (hend : s.encSt = .done ∨ s.encSt = .term → s.encRem = 0) : EncInv s :=
  ⟨hcur, fun h => absurd h hst, fun h => absurd h (by simp [hzero]), fun _ => ⟨hblk, hzero⟩, hend⟩

theorem EncInv.pullCode {s : State} {l : Nat} {z : Bool} (hinv : EncInv s)
    (hparams : s.params.wellFormed = true)
    (hfinds : ScanFinds s s.encPtr.toNat (min 254 s.encRem.toNat) l z) :
    EncInv (s.pullCode l z) := by
  have hcur := hinv.cursorInRam
  have hle := hfinds.le
  obtain ⟨-, hblock, hzero, hlast⟩ :=
    pullCode_follows (hcur.trans (ramSize_le_of_wellFormed hparams)) hfinds
  obtain ⟨-, hat, hend⟩ := hfinds
  rcases Nat.eq_zero_or_pos l with hl | hl
  · cases z with
    | true =>
      obtain ⟨hst, hblk, hz, hptr, hrem⟩ := hzero hl rfl
      exact .of_no_block (by rw [State.pullCode_params]; omega) (by simp [hst]) hblk hz
        (by simp [hst])
    | false =>
      obtain ⟨hst, hblk, hz, hptr, hrem⟩ := hlast hl rfl
      refine .of_no_block (by rwa [State.pullCode_params, hptr, hrem]) (by simp [hst]) hblk hz
        fun _ => ?_
      have := hend rfl
      rw [hrem]
      bv_omega
  · obtain ⟨hst, hblk, hz, hptr, hrem⟩ := hblock hl
    refine ⟨by rwa [State.pullCode_params, hptr, hrem], fun _ => ?_, fun hzt => ⟨hst, ?_⟩,
      fun h => absurd hst h, by simp [hst]⟩
    · rw [hblk, hrem]
      omega
    · have := hat (hz ▸ hzt)
      rw [hblk, hrem]
      omega

theorem EncInv.pullData {s : State} (b : Byte) (hinv : EncInv s)
    (hparams : s.params.wellFormed = true) (hdata : s.encSt = .data) : EncInv (s.pullData b) := by
  have hcur := hinv.cursorInRam
  have hahead := hinv.zeroAhead
  obtain ⟨hblk1, hblk254, hblkRem⟩ := hinv.dataBlock hdata
  obtain ⟨hinside, hlast⟩ := pullData_follows b hinv hdata
    (hcur.trans (ramSize_le_of_wellFormed hparams))
  rcases hblk1.eq_or_lt with hone | hmore
  · obtain ⟨hblk, hz, helided, hplain⟩ := hlast hone.symm
    cases hzero : s.encZero with
    | true =>
      obtain ⟨hst, hptr, hrem⟩ := helided hzero
      exact .of_no_block (by rw [State.pullData_params]; omega) (by simp [hst]) hblk hz
        (by simp [hst])
    | false =>
      obtain ⟨hst, hptr, hrem⟩ := hplain hzero
      refine .of_no_block (by rw [State.pullData_params]; omega) (by rw [hst]; split <;> simp) hblk
        hz fun hend => ?_
      rw [hst] at hend
      split_ifs at hend with hr
      · bv_omega
      · simp at hend
  · obtain ⟨hst, hblk, hz, hptr, hrem⟩ := hinside hmore
    refine ⟨by rw [State.pullData_params]; omega, fun _ => by omega, fun hzt => ⟨hst, ?_⟩,
      fun h => absurd hst h, by simp [hst]⟩
    have := hahead (hz ▸ hzt)
    omega

theorem Ends.encInv {i : Instr} {s t : State} (h : Ends s i t) (hparams : s.params.wellFormed = true)
    (hinv : EncInv s) : EncInv t := by
  cases h with
  | softReset =>
    exact .of_no_block (Nat.zero_le _) (by simp [State.softReset, State.powerOn]) rfl rfl
      fun _ => rfl
  | encStart hfits =>
    exact .of_no_block hfits (by simp [State.encStarted]) rfl rfl (by simp [State.encStarted])
  | pullTerm hst =>
    obtain ⟨hblk, hz⟩ := hinv.noBlock (by simp [hst])
    exact .of_no_block hinv.cursorInRam (by simp) hblk hz fun _ => hinv.consumed (.inr hst)
  | pullCode hst hscan =>
    have hcur := hinv.cursorInRam
    obtain ⟨l, z, hok, hfinds⟩ := scanZero_ok (s := s) (a := s.encPtr.toNat)
      (m := min 254 s.encRem.toNat) (by omega)
    cases hok.symm.trans hscan
    exact (hinv.pullCode hparams hfinds).congr rfl rfl rfl rfl rfl rfl
  | pullData hst => exact (hinv.pullData _ hparams hst).congr rfl rfl rfl rfl rfl rfl
  | pushLiteral _ _ _ hemit | pushAfterShort _ _ _ hemit =>
    have honly := onlyDecodingChanged_emit hemit
    apply hinv.congr <;> rw [honly] <;> simp
  | pushFrameStart | pushAfterFull => apply hinv.congr <;> simp
  | _ => exact hinv.congr rfl rfl rfl rfl rfl rfl

/-! ### The decoder invariants (R35) -/

/-- They speak of the parameters and of the decoder's registers alone. -/
theorem DecInv.congr {s t : State} (h : DecInv s) (hparams : t.params = s.params)
    (hst : t.decSt = s.decSt) (hcnt : t.decCnt = s.decCnt) (hovf : t.decOvf = s.decOvf)
    (hbase : t.decBase = s.decBase) (hcap : t.decCap = s.decCap) (hlen : t.decLen = s.decLen) :
    DecInv t := by
  obtain ⟨hin, hdest, hidle, hblock, hpblock⟩ := h
  constructor <;> simp only [hparams, hst, hcnt, hovf, hbase, hcap, hlen] <;> assumption

theorem DecInv.of_idle {s : State} (hlen : s.decLen.toNat ≤ s.decCap.toNat)
    (hdest : s.decBase.toNat + s.decCap.toNat ≤ s.params.ramSize) (hst : s.decSt = .idle)
    (hcnt : s.decCnt = 0) (hovf : s.decOvf = false) : DecInv s :=
  ⟨hlen, hdest, fun _ => ⟨hcnt, hovf⟩, fun h => by simp [hst] at h, fun h => by simp [hst] at h⟩

theorem decInv_enterBlock {u : State} {b : Byte} (hb : b ≠ 0x00)
    (hlen : u.decLen.toNat ≤ u.decCap.toNat)
    (hdest : u.decBase.toNat + u.decCap.toNat ≤ u.params.ramSize) : DecInv (u.enterBlock b) := by
  unfold State.enterBlock
  split
  · exact ⟨hlen, hdest, nofun, nofun, fun _ => Nat.le_refl 254⟩
  · exact ⟨hlen, hdest, nofun, fun _ => by simp only; bv_omega, nofun⟩

/-- emit keeps DEC_LEN inside the destination. -/
theorem emit_decLen_le {s u : State} {v : Byte} {c : Code} (hlen : s.decLen.toNat ≤ s.decCap.toNat)
    (h : s.emit v = .ok (u, c)) : u.decLen.toNat ≤ u.decCap.toNat := by
  obtain ⟨-, hlt, -, -, rfl⟩ | ⟨-, -, rfl⟩ := emit_cases h
  · simp only
    bv_omega
  · exact hlen

theorem emit_decSt {s u : State} {v : Byte} {c : Code} (h : s.emit v = .ok (u, c)) :
    u.decSt = s.decSt := by
  obtain ⟨-, -, -, -, rfl⟩ | ⟨-, -, rfl⟩ := emit_cases h <;> rfl

/-- emit keeps the parameters and the destination. -/
theorem emit_dest {s u : State} {v : Byte} {c : Code} (h : s.emit v = .ok (u, c)) :
    u.params = s.params ∧ u.decBase = s.decBase ∧ u.decCap = s.decCap := by
  rw [onlyDecodingChanged_emit h]
  exact ⟨rfl, rfl, rfl⟩

theorem Ends.decInv {i : Instr} {s t : State} (h : Ends s i t) (hinv : DecInv s) : DecInv t := by
  have hlen := hinv.lenInCap
  have hdest := hinv.destInRam
  cases h with
  | softReset => exact .of_idle (Nat.le_refl 0) (Nat.zero_le _) rfl rfl rfl
  | decReset hfits => exact .of_idle (Nat.zero_le _) hfits rfl rfl rfl
  | pushFrameEnd => exact .of_idle hlen hdest rfl rfl rfl
  | pushOvfEnd | pushMalformed => exact .of_idle (Nat.zero_le _) hdest rfl rfl rfl
  | pushFrameStart _ hb =>
    exact (decInv_enterBlock (u := { s with decLen := 0, decOvf := false }) hb (Nat.zero_le _)
      hdest).congr rfl rfl rfl rfl rfl rfl rfl
  | pushAfterFull _ _ hb =>
    exact (decInv_enterBlock hb hlen hdest).congr rfl rfl rfl rfl rfl rfl rfl
  | pushAfterShort _ _ hb hemit =>
    obtain ⟨hparams, hbase, hcap⟩ := emit_dest hemit
    exact (decInv_enterBlock hb (emit_decLen_le hlen hemit) (by rwa [hparams, hbase, hcap])).congr
      rfl rfl rfl rfl rfl rfl rfl
  | pushLiteral hst hcnt hb hemit =>
    obtain ⟨hparams, hbase, hcap⟩ := emit_dest hemit
    have hst' := emit_decSt hemit
    have hin := emit_decLen_le hlen hemit
    refine ⟨hin, by simpa [hparams, hbase, hcap] using hdest,
      fun h => absurd (hst'.symm.trans h) hst, ?_, ?_⟩
    · intro h
      have := hinv.blockCount (hst'.symm.trans h)
      simp only [State.complete_decCnt]
      bv_omega
    · intro h
      have := hinv.pblockCount (hst'.symm.trans h)
      simp only [State.complete_decCnt]
      bv_omega
  | pullCode | pullData => apply hinv.congr <;> simp
  | _ => exact hinv.congr rfl rfl rfl rfl rfl rfl rfl

/-! ### The RAM (R60) -/

theorem RamInv.congr {s t : State} (h : RamInv s) (hram : t.ram = s.ram)
    (hparams : t.params = s.params) : RamInv t :=
  ⟨hram ▸ h.canonical, hram ▸ hparams ▸ h.inRam⟩

theorem RamInv.write {s : State} (h : RamInv s) {a : Nat} (ha : a < s.params.ramSize) (v : Byte) :
    RamInv { s with ram := s.ram.write a v } := by
  refine ⟨Memory.wf_write _ _ _ h.canonical, fun c hc => ?_⟩
  obtain hca | hold := Memory.mem_write _ _ _ _ hc
  · exact hca.symm ▸ ha
  · exact h.inRam c hold

theorem RamInv.writeBytes {s : State} (h : RamInv s) {a : Nat} {vs : List Byte}
    (ha : a + vs.length ≤ s.params.ramSize) :
    RamInv { s with ram := s.ram.writeBytes a vs } := by
  refine ⟨Memory.wf_writeBytes _ _ _ h.canonical, fun c hc => ?_⟩
  obtain ⟨-, hlt⟩ | hold := Memory.mem_writeBytes _ _ _ _ hc
  · exact hlt.trans_le ha
  · exact h.inRam c hold

theorem RamInv.emit {s u : State} {v : Byte} {c : Code} (hinv : RamInv s)
    (h : s.emit v = .ok (u, c)) : RamInv u := by
  obtain ⟨-, -, -, hlt, rfl⟩ | ⟨-, -, rfl⟩ := emit_cases h
  · exact (hinv.write hlt v).congr rfl rfl
  · exact hinv.congr rfl rfl

theorem Ends.ramInv {i : Instr} {s t : State} (h : Ends s i t) (hinv : RamInv s) : RamInv t := by
  cases h with
  | built sh c hw hfits => exact (hinv.writeBytes hfits).congr rfl rfl
  | pushLiteral _ _ _ hemit => exact (hinv.emit hemit).congr rfl rfl
  | pushAfterShort _ _ _ hemit => exact (hinv.emit hemit).congr (by simp) (by simp)
  | pullCode | pullData | pushFrameStart | pushAfterFull => exact hinv.congr (by simp) (by simp)
  | _ => exact hinv.congr rfl rfl

/-! ### The status registers -/

/-- Where the destination is not full, emit stores; so OVF means that it is full. -/
theorem emit_ovfFull {s u : State} {v : Byte} {c : Code} (hlen : s.decLen.toNat ≤ s.decCap.toNat)
    (hfull : s.decOvf = true → s.decLen = s.decCap) (h : s.emit v = .ok (u, c)) :
    u.decOvf = true → u.decLen = u.decCap := by
  obtain ⟨hovf, -, -, -, rfl⟩ | ⟨hno, -, rfl⟩ := emit_cases h
  · exact fun h => absurd h (by simp [hovf])
  · intro _
    cases hovf : s.decOvf with
    | true => exact hfull hovf
    | false =>
      have hge : ¬ s.decLen < s.decCap := fun hlt => hno ⟨hovf, hlt⟩
      simp only
      bv_omega

theorem Ends.ovfFull {i : Instr} {s t : State} (h : Ends s i t) (hdec : DecInv s)
    (hfull : s.decOvf = true → s.decLen = s.decCap) : t.decOvf = true → t.decLen = t.decCap := by
  cases h with
  | softReset | decReset | pushFrameEnd | pushOvfEnd | pushMalformed => exact nofun
  | pushFrameStart => simp
  | pushAfterFull | pullCode | pullData => simpa using hfull
  | pushLiteral _ _ _ hemit =>
    have hemitted := emit_ovfFull hdec.lenInCap hfull hemit
    exact hemitted
  | pushAfterShort _ _ _ hemit => simpa using emit_ovfFull hdec.lenInCap hfull hemit
  | _ => exact hfull

/-- The part of `ReportInv` on FRM_VALID, FRM_RESP and FRM_LEN. -/
structure FrameReport (s : State) : Prop where
  respVerified : s.frmValid = false → s.frmResp = 0
  frmLenBound : s.frmLen.toNat ≤ 1028
  frmLenInRam : s.frmLen.toNat ≤ s.params.ramSize

theorem FrameReport.congr {s t : State} (h : FrameReport s) (hvalid : t.frmValid = s.frmValid)
    (hresp : t.frmResp = s.frmResp) (hlen : t.frmLen = s.frmLen) (hparams : t.params = s.params) :
    FrameReport t := by
  obtain ⟨hverified, hbound, hin⟩ := h
  constructor <;> simp only [hvalid, hresp, hlen, hparams] <;> assumption

/-- FRM_LEN holds the length of a frame inside the RAM. -/
theorem toNat_frmLen_le {a n r : Nat} (hn : n ≤ 1028) (hfits : a + n ≤ r) :
    (BitVec.ofNat 32 n).toNat ≤ 1028 ∧ (BitVec.ofNat 32 n).toNat ≤ r := by
  rw [BitVec.toNat_ofNat]
  omega

theorem Ends.frameReport {i : Instr} {s t : State} (h : Ends s i t) (hinv : FrameReport s) :
    FrameReport t := by
  cases h with
  | softReset => exact ⟨fun _ => rfl, Nat.zero_le _, Nat.zero_le _⟩
  | built sh c hw hfits =>
    obtain ⟨hbound, hin⟩ := toNat_frmLen_le (length_frameBytes_le sh c hw) hfits
    exact ⟨hinv.respVerified, hbound, hin⟩
  | verifyConfig | verifyPast => exact ⟨fun _ => rfl, hinv.frmLenBound, hinv.frmLenInRam⟩
  | verified sh hw hfits =>
    obtain ⟨hbound, hin⟩ := toNat_frmLen_le (words_mul_width_le sh hw) hfits
    exact ⟨nofun, hbound, hin⟩
  | mismatch sh hw hfits =>
    obtain ⟨hbound, hin⟩ := toNat_frmLen_le (words_mul_width_le sh hw) hfits
    exact ⟨fun _ => rfl, hbound, hin⟩
  | pushLiteral _ _ _ hemit | pushAfterShort _ _ _ hemit =>
    have honly := onlyDecodingChanged_emit hemit
    apply hinv.congr <;> rw [honly] <;> simp
  | pushFrameStart | pushAfterFull | pullCode | pullData => apply hinv.congr <;> simp
  | _ => exact hinv.congr rfl rfl rfl rfl

/-! ### The invariant of the block -/

theorem ReportInv.frame {s : State} (h : ReportInv s) : FrameReport s :=
  ⟨h.respVerified, h.frmLenBound, h.frmLenInRam⟩

/-- Every command keeps the invariant. -/
theorem Inv.exec {i : Instr} {s t : State} (hinv : Inv s) (h : exec i s = .next t) : Inv t := by
  have hends := ends_of_exec h
  obtain ⟨hparams, henc, hdec, hmem, hreport⟩ := hinv
  obtain ⟨herr, -, -⟩ := exec_err_rule h
  obtain ⟨hresp, hbound, hin⟩ := hends.frameReport hreport.frame
  exact ⟨exec_params_eq h ▸ hparams, hends.encInv hparams henc, hends.decInv hdec,
    hends.ramInv hmem, ⟨herr, hends.ovfFull hdec hreport.ovfFull, hresp, hbound, hin⟩⟩

/-- `t` is `s` but for fields the invariant does not speak of: the registers the host writes, and its
side of the bus. -/
def OnlyHostSideChanged (s t : State) : Prop :=
  t = { s with cfgWidth := t.cfgWidth, cfgChannels := t.cfgChannels, arg0 := t.arg0, arg1 := t.arg1,
               arg2 := t.arg2, arg3 := t.arg3, crcAcc := t.crcAcc, host := t.host, resp := t.resp }

theorem Inv.hostSide {s t : State} (hinv : Inv s) (h : OnlyHostSideChanged s t) : Inv t := by
  rw [h]
  obtain ⟨hparams, henc, hdec, hmem, ⟨herr, hovf, hresp, hbound, hin⟩⟩ := hinv
  exact ⟨hparams, henc.congr rfl rfl rfl rfl rfl rfl, hdec.congr rfl rfl rfl rfl rfl rfl rfl,
    hmem.congr rfl rfl, ⟨herr, hovf, hresp, hbound, hin⟩⟩

/-- Reporting a code changes CODE and ERR together. -/
theorem Inv.complete {s : State} (hinv : Inv s) (c : Code) : Inv (s.complete c) := by
  obtain ⟨hparams, henc, hdec, hmem, ⟨-, hovf, hresp, hbound, hin⟩⟩ := hinv
  exact ⟨hparams, henc.congr rfl rfl rfl rfl rfl rfl, hdec.congr rfl rfl rfl rfl rfl rfl rfl,
    hmem.congr rfl rfl, ⟨fun hc => complete_err_of_isError hc s, hovf, hresp, hbound, hin⟩⟩

theorem Inv.writeByte {s : State} (hinv : Inv s) {a : Nat} (ha : a < s.params.ramSize) (v : Byte) :
    Inv { s with ram := s.ram.write a v } := by
  obtain ⟨hparams, henc, hdec, hmem, ⟨herr, hovf, hresp, hbound, hin⟩⟩ := hinv
  exact ⟨hparams, henc.congr rfl rfl rfl rfl rfl rfl, hdec.congr rfl rfl rfl rfl rfl rfl rfl,
    hmem.write ha v, ⟨herr, hovf, hresp, hbound, hin⟩⟩

theorem onlyHostSideChanged_writeReg (s : State) (r : Reg) (v : Word) :
    OnlyHostSideChanged s (s.writeReg r v) := by
  cases r <;> rfl

/-- Settles O51: of a step's parts a command keeps the invariant, a store keeps the RAM canonical, and
the rest touches nothing that the invariant speaks of. -/
theorem stepKeepsTheInvariant : Obligations.StepKeepsTheInvariant := by
  intro s t hinv h
  have htaken (rest : List Access) : Inv { s with host := rest } := hinv.hostSide rfl
  have hanswered {u : State} (hu : Inv u) (b : BusStatus) (d : Word) : Inv (u.answer b d) :=
    hu.hostSide rfl
  cases stepEnds_of_step h with
  | silent => exact hinv
  | answered rest b d => exact hanswered (htaken rest) b d
  | ran hexec => exact hanswered ((htaken _).exec hexec) _ _
  | illegal rest => exact hanswered ((htaken rest).complete _) _ _
  | storedReg rest r v =>
    exact hanswered ((htaken rest).hostSide (onlyHostSideChanged_writeReg _ r v)) _ _
  | storedByte rest v hlt => exact hanswered ((htaken rest).writeByte hlt v) _ _

/-- Settles O52: the reset values meet each part of the invariant; the RAM's part is assumed. -/
theorem resetMeetsTheInvariant : Obligations.ResetMeetsTheInvariant := by
  have hpowerOn {p : Params} {ram : Memory} (hp : p.wellFormed = true) (hram : ram.wf = true)
      (hin : ∀ c ∈ ram, c.1 < p.ramSize) : Inv (State.powerOn p ram) :=
    ⟨hp, .of_no_block (Nat.zero_le _) (by simp [State.powerOn]) rfl rfl fun _ => rfl,
      .of_idle (Nat.le_refl 0) (Nat.zero_le _) rfl rfl rfl, ⟨hram, hin⟩,
      ⟨fun h => absurd h (by simp [State.powerOn, Code.isError, Code.toByte]), nofun, fun _ => rfl,
        Nat.zero_le _, Nat.zero_le _⟩⟩
  exact ⟨fun p ram => hpowerOn, hpowerOn (by decide) rfl nofun⟩

/-! ### No step stops -/

theorem runWord_next {s : State} (w : Word) (hinv : Inv s) : ∃ t, runWord w s = .next t := by
  cases hw : decode w with
  | ok i =>
    rw [runWord, hw]
    exact exec_next (fun _ => hinv.enc) fun _ _ => hinv.dec
  | error e => exact ⟨_, runWord_of_decode_eq_error hw s⟩

theorem hostWrite_next {s : State} (off bits : Nat) (v : Word) (hinv : Inv s) :
    ∃ t, hostWrite off bits v s = .next t := by
  obtain ⟨t, ht⟩ := runWord_next v hinv
  unfold hostWrite
  split
  · split
    · split
      · exact ⟨t.acked, by rw [ht]; rfl⟩
      · exact ⟨_, rfl⟩
      · exact ⟨_, rfl⟩
    · exact ⟨_, rfl⟩
  · split
    · dsimp only
      split
      · exact ⟨_, rfl⟩
      · exact ⟨_, rfl⟩
    · exact ⟨_, rfl⟩

/-- Settles O53: the only part of a step that can stop is the command of a CMD write, and under the
invariant it does not. -/
theorem noStepStopsUnderTheInvariant : Obligations.NoStepStopsUnderTheInvariant := by
  intro s hinv
  unfold step hostStep
  split
  · exact ⟨s, rfl⟩
  · next rest _ =>
    have htaken : Inv { s with host := rest } := hinv.hostSide rfl
    unfold performAccess
    split <;> split
    · exact ⟨_, rfl⟩
    · exact ⟨_, rfl⟩
    · exact ⟨_, rfl⟩
    · exact hostWrite_next _ _ _ htaken

end Sys2Proof.Machine
end

section
/-! PROOF. The laws of the CRC (spec/41_crc.md, section 3): linearity of the byte step, continuation
over pieces, and the detection of one flipped bit. -/

namespace Sys2Proof.Machine

/-! ### Linearity (R100, R106) -/

theorem crcRound_xor (a b : Half) : crcRound (a ^^^ b) = crcRound a ^^^ crcRound b := by
  simp only [crcRound, BitVec.msb_xor, BitVec.shiftLeft_xor_distrib]
  cases a.msb <;> cases b.msb
  case true.true =>
    -- The two polynomials cancel.
    simp only [bne_self_eq_false, Bool.false_eq_true, if_false, if_true]
    rw [BitVec.xor_comm (b <<< 1), BitVec.xor_assoc, ← BitVec.xor_assoc crcPoly, BitVec.xor_self,
      BitVec.zero_xor]
  case false.false => rfl
  case true.false =>
    simp only [Bool.true_bne, Bool.not_false, Bool.false_eq_true, if_true, if_false]
    rw [BitVec.xor_assoc, BitVec.xor_comm (b <<< 1), BitVec.xor_assoc]
  case false.true =>
    simp only [Bool.false_bne, Bool.false_eq_true, if_true, if_false]
    rw [BitVec.xor_assoc]

theorem crcRounds_xor (n : Nat) (a b : Half) :
    crcRounds n (a ^^^ b) = crcRounds n a ^^^ crcRounds n b := by
  induction n generalizing a b with
  | zero => rfl
  | succ n ih => rw [crcRounds, crcRound_xor, ih]; rfl

/-- Settles O18: each round is linear, and so is placing the byte in bits 15:8. -/
theorem crcStepIsLinear : Obligations.CrcStepIsLinear := by
  intro a b x y
  rw [crcStep, crcStep, crcStep, BitVec.setWidth_xor, BitVec.shiftLeft_xor_distrib, ← crcRounds_xor]
  congr 1
  simp only [BitVec.xor_assoc]
  rw [← BitVec.xor_assoc b, BitVec.xor_comm b, BitVec.xor_assoc]

/-! ### Continuation (R105) -/

theorem crcFold_append (acc : Half) (p q : List Byte) :
    crcFold acc (p ++ q) = crcFold (crcFold acc p) q :=
  List.foldl_append

/-- Settles O17: the second command folds on from where the first ended; with legal parameters the
address of the second piece does not wrap. -/
theorem crcContinuesOverPieces : Obligations.CrcContinuesOverPieces := by
  intro s n hfits hparams
  have hram := ramSize_le_of_wellFormed hparams
  have haddr : (s.arg0 + s.arg1).toNat = s.arg0.toNat + s.arg1.toNat := by bv_omega
  refine ⟨_, _, exec_crcSpan_of_le true (by omega), exec_crcSpan_of_le false ?range, ?crc⟩
  case range => exact haddr ▸ hfits
  case crc =>
    rw [Memory.bytes_add, crc16, crcFold_append, ← haddr]
    rfl

/-! ### No information is lost (R106) -/

theorem crcRound_eq_zero {a : Half} (h : crcRound a = 0) : a = 0 := by
  unfold crcRound crcPoly at h
  split at h
  · next hmsb =>
    -- Bit 0 of the shifted accumulator is 0, and that of the polynomial is 1.
    have hbit := congrArg (·.getLsbD 0) h
    simp at hbit
  · next hmsb =>
    have hlow : a.toNat < 32768 := by simpa [BitVec.msb_eq_decide] using hmsb
    have hshift : a.toNat * 2 % 65536 = 0 := by
      simpa [Nat.shiftLeft_eq] using congrArg BitVec.toNat h
    bv_omega

/-- The round is linear and has no kernel. -/
theorem crcRound_injective : Function.Injective crcRound := by
  intro a b h
  have hker : crcRound (a ^^^ b) = 0 := by rw [crcRound_xor, h]; exact BitVec.xor_self
  exact BitVec.xor_eq_zero_iff.1 (crcRound_eq_zero hker)

theorem crcRounds_injective (n : Nat) : Function.Injective (crcRounds n) := by
  intro a b h
  rw [crcRounds_eq_iterate, crcRounds_eq_iterate] at h
  exact crcRound_injective.iterate n h

theorem crcStep_injective_acc (b : Byte) : Function.Injective fun acc => crcStep acc b :=
  fun _ _ h => (BitVec.xor_left_inj _).1 (crcRounds_injective 8 h)

theorem crcStep_injective_byte (acc : Half) : Function.Injective (crcStep acc) := by
  intro x y h
  have hbytes := (BitVec.xor_right_inj _).1 (crcRounds_injective 8 h)
  have hshift : x.toNat * 256 % 65536 = y.toNat * 256 % 65536 := by
    simpa [Nat.shiftLeft_eq] using congrArg BitVec.toNat hbytes
  bv_omega

theorem crcFold_injective_acc (p : List Byte) : Function.Injective fun acc => crcFold acc p := by
  induction p with
  | nil => exact fun _ _ h => h
  | cons b p ih => exact fun _ _ h => crcStep_injective_acc b (ih h)

/-- Byte strings that differ in one byte alone have different CRCs, whatever their length. -/
theorem crcFold_ne_of_one_byte (acc : Half) (p q : List Byte) {x y : Byte} (h : x ≠ y) :
    crcFold acc (p ++ x :: q) ≠ crcFold acc (p ++ y :: q) := by
  rw [crcFold_append, crcFold_append]
  exact fun heq => h (crcStep_injective_byte _ (crcFold_injective_acc q heq))

/-! ### One flipped bit (R106) -/

/-- A range, cut at one of its bytes. -/
theorem Memory.bytes_cut (m : Memory) (a : Nat) {n k : Nat} (hk : k < n) :
    m.bytes a n = m.bytes a k ++ m.read (a + k) :: m.bytes (a + k + 1) (n - k - 1) := by
  obtain ⟨j, rfl⟩ : ∃ j, n = k + (j + 1) := ⟨n - k - 1, by omega⟩
  rw [Memory.bytes_add, Memory.bytes, show k + (j + 1) - k - 1 = j by omega]

theorem xor_twoPow_ne {i : Nat} (hi : i < 8) (b : Byte) : b ^^^ BitVec.twoPow 8 i ≠ b := by
  intro h
  have hbit := congrArg (·.getLsbD i) h
  simp [hi] at hbit

section
variable {s u : State} {a n k i : Nat}

theorem OneBitFlipped.read_ne (h : OneBitFlipped a n k i s u) (hi : i < 8) :
    u.ram.read (a + k) ≠ s.ram.read (a + k) := by
  obtain ⟨hflip, -⟩ := h
  exact fun heq => xor_twoPow_ne hi _ (hflip.symm.trans heq)

/-- Away from the flipped byte the ranges agree. -/
theorem OneBitFlipped.bytes_eq (h : OneBitFlipped a n k i s u) {b m : Nat} (hb : a ≤ b)
    (hm : b + m ≤ a + n) (hk : ¬(b ≤ a + k ∧ a + k < b + m)) : u.ram.bytes b m = s.ram.bytes b m := by
  obtain ⟨-, hsame⟩ := h
  exact Memory.bytes_congr _ _ _ _ fun x h1 h2 => hsame x (by omega) (by omega) (by omega)

/-- A flipped bit shows in the CRC of every part of the span that contains it. -/
theorem OneBitFlipped.crc16_ne (h : OneBitFlipped a n k i s u) (hi : i < 8) {m : Nat} (hm : m ≤ n)
    (hk : k < m) : crc16 (u.ram.bytes a m) ≠ crc16 (s.ram.bytes a m) := by
  rw [Memory.bytes_cut u.ram a hk, Memory.bytes_cut s.ram a hk,
    h.bytes_eq (Nat.le_refl a) (by omega) (by omega), h.bytes_eq (by omega) (by omega) (by omega)]
  exact crcFold_ne_of_one_byte _ _ _ (h.read_ne hi)

end

/-- Settles O19: both spans pass the range check, and their CRCs differ. -/
theorem crcDetectsOneFlippedBit : Obligations.CrcDetectsOneFlippedBit := by
  intro s u k i hfits hparams harg0 harg1 hk hi hflip
  refine ⟨_, _, exec_crcSpan_of_le true hfits, exec_crcSpan_of_le true ?range, ?differ⟩
  case range => rwa [hparams, harg0, harg1]
  case differ =>
    have hne := hflip.crc16_ne hi (Nat.le_refl _) hk
    rw [← harg0, ← harg1] at hne
    rw [harg0, harg1] at hne ⊢
    exact hne.symm

end Sys2Proof.Machine
end

section
/-! PROOF. The laws of the frame codec (spec/44_frame_codec.md): a frame built with its CRC verifies,
a verify detects one flipped bit (R183), and the channel value is a sign extension (R186). -/

namespace Sys2Proof.Machine

/-! ### A frame built with C = 1 (R178) -/

/-- With C = 1 every shape's tail is the CRC word. -/
theorem Shape.tail_true (sh : Shape) (w : Nat) (crc : Half) :
    sh.tail w true crc = wordBytes w crc := by
  cases sh <;> rfl

/-- Word 0 of every shape is the command word. -/
theorem word16_frameData_dataWords (sh : Shape) (w : Nat) (s : State) :
    word16 (frameData w (sh.dataWords s)) = s.argCommand := by
  cases sh <;> exact word16_wordBytes s.argCommand w

/-- The value of the word at an address: its first two bytes (R171). -/
def State.wordAt (s : State) (a : Nat) : Half := s.ramByte a ++ s.ramByte (a + 1)

theorem word16_bytes_eq_wordAt {n : Nat} (hn : 2 ≤ n) (s : State) (a : Nat) :
    word16 (s.ram.bytes a n) = s.wordAt a :=
  word16_bytes hn s.ram a

/-- `t` holds at ARG0 a frame of shape `sh` with the command word `cmd`, ended by the CRC that FRM_CRC
reports. -/
structure HoldsFrame (sh : Shape) (t : State) (cmd : Half) : Prop where
  legal : LegalWidth t
  inRam : t.arg0.toNat + sh.words t.cfgChannels.toNat * t.cfgWidth.toNat ≤ t.params.ramSize
  crc : crc16 (t.ram.bytes t.arg0.toNat ((sh.words t.cfgChannels.toNat - 1) * t.cfgWidth.toNat)) =
    t.frmCrc
  command : t.wordAt t.arg0.toNat = cmd
  crcWord :
    t.wordAt (t.arg0.toNat + (sh.words t.cfgChannels.toNat - 1) * t.cfgWidth.toNat) = t.frmCrc

/-- A build that reports OK had a legal width and a frame that fits. -/
theorem exec_build_ok {sh : Shape} {c : Bool} {s t : State} (h : exec (sh.build c) s = .next t)
    (hok : t.code = .ok) : LegalWidth s ∧
      s.arg0.toNat + (frameBytes sh.tail s.cfgWidth.toNat c (sh.dataWords s)).length
        ≤ s.params.ramSize := by
  have hraised {code : Code} (hr : RaisesOnly (sh.build c) s code) : t.code = code := by
    obtain ⟨t', ht', hcode, -⟩ := hr
    cases h.symm.trans ht'
    exact hcode
  have hw : LegalWidth s := by
    by_contra hw
    cases (hraised (build_raises_errConfig sh c hw)).symm.trans hok
  refine ⟨hw, ?_⟩
  by_contra hno
  cases (hraised ((build_buildsFrame sh c hw).2 (Nat.not_le.1 hno))).symm.trans hok

/-- A range of two parts, each of the length of its part of the bytes. -/
theorem Memory.bytes_eq_append {m : Memory} {a n k : Nat} {p q : List Byte}
    (h : m.bytes a (p ++ q).length = p ++ q) (hp : p.length = n) (hq : q.length = k) :
    m.bytes a n = p ∧ m.bytes (a + n) k = q := by
  rw [List.length_append, Memory.bytes_add, hp, hq] at h
  exact List.append_inj h (by rw [Memory.length_bytes, hp])

theorem holdsFrame_of_build {sh : Shape} {s t : State} (h : exec (sh.build true) s = .next t)
    (hok : t.code = .ok) : HoldsFrame sh t (s.arg2.extractLsb' 0 16) := by
  obtain ⟨hw, hfits⟩ := exec_build_ok h hok
  obtain ⟨hw2, -⟩ := hw.bounds
  obtain ⟨t', ⟨hexec, -⟩, -, hcrc, hbytes, -⟩ := (build_buildsFrame sh true hw).1 hfits
  cases h.symm.trans hexec
  have hkeep := (ends_of_exec h).keepsOperands (by cases sh <;> simp [Shape.build])
  have hk : (sh.dataWords s).length = sh.words t.cfgChannels.toNat - 1 := by
    rw [hkeep.channels, ← length_dataWords]
    rfl
  have hk2 := (sh.words_bounds t.cfgChannels).1
  have hdata : (frameData s.cfgWidth.toNat (sh.dataWords s)).length =
      (sh.words t.cfgChannels.toNat - 1) * t.cfgWidth.toNat := by
    rw [length_frameData hw2, hk, hkeep.width]
  rw [Shape.tail_true] at hbytes
  obtain ⟨hdataBytes, hcrcBytes⟩ := Memory.bytes_eq_append hbytes hdata
    (length_wordBytes_of_le hw2 _)
  rw [← hkeep.arg0] at hdataBytes hcrcBytes
  refine ⟨?legal, ?inRam, ?dataCrc, ?command, ?crcWord⟩
  case legal =>
    unfold LegalWidth
    rwa [hkeep.width]
  case inRam =>
    rw [frameBytes, List.length_append, hdata, Shape.tail_true, length_wordBytes_of_le hw2,
      ← hkeep.arg0, ← hkeep.params, ← hkeep.width, ← Nat.succ_mul] at hfits
    rwa [show sh.words t.cfgChannels.toNat = (sh.words t.cfgChannels.toNat - 1).succ by omega]
  case dataCrc => rw [hdataBytes, hcrc]
  case command =>
    have hlen : 2 ≤ (sh.words t.cfgChannels.toNat - 1) * t.cfgWidth.toNat := by
      rw [hkeep.width]
      exact hw2.trans (Nat.le_mul_of_pos_left _ (by omega))
    rw [← word16_bytes_eq_wordAt hlen, hdataBytes, word16_frameData_dataWords]
    rfl
  case crcWord =>
    rw [← word16_bytes_eq_wordAt hw2, hcrcBytes, word16_wordBytes, hcrc]

/-! ### Verifying it under the same setup (R182) -/

section
variable {sh : Shape} {t u : State} {cmd : Half}

/-- The verify of a shape from `u`, in the configuration `u` shares with `t`. -/
theorem HoldsFrame.verifiesFrame (hframe : HoldsFrame sh t cmd) (hsetup : SameFrameSetup t u) :
    VerifiesFrame sh.verify u (sh.words t.cfgChannels.toNat) t.cfgWidth.toNat := by
  have hlegal : LegalWidth u := by
    unfold LegalWidth
    rw [hsetup.width]
    exact hframe.legal
  have h := verify_verifiesFrame sh hlegal
  rwa [hsetup.width, hsetup.channels] at h

/-- The verify passes where the data portion and the CRC word read as `t` has them. -/
theorem HoldsFrame.verify_passes (hframe : HoldsFrame sh t cmd) (hsetup : SameFrameSetup t u)
    (hdata : u.ram.bytes t.arg0.toNat ((sh.words t.cfgChannels.toNat - 1) * t.cfgWidth.toNat) =
      t.ram.bytes t.arg0.toNat ((sh.words t.cfgChannels.toNat - 1) * t.cfgWidth.toNat))
    (hword : u.wordAt (t.arg0.toNat + (sh.words t.cfgChannels.toNat - 1) * t.cfgWidth.toNat) =
      t.wordAt (t.arg0.toNat + (sh.words t.cfgChannels.toNat - 1) * t.cfgWidth.toNat)) :
    ∃ v, exec sh.verify u = .next v ∧ v.code = .ok ∧ v.frmValid = true ∧ v.frmCrc = t.frmCrc ∧
      v.frmResp = u.wordAt t.arg0.toNat := by
  obtain ⟨-, hchecked⟩ := hframe.verifiesFrame hsetup
  rw [hsetup.address, hsetup.params] at hchecked
  obtain ⟨hpass, -⟩ := hchecked hframe.inRam
  have hcrc : crc16 (u.ram.bytes t.arg0.toNat
      ((sh.words t.cfgChannels.toNat - 1) * t.cfgWidth.toNat)) = t.frmCrc := by
    rw [hdata, hframe.crc]
  obtain ⟨v, hexec, hcode, -, hvalid, hresp, hfrmCrc, -⟩ :=
    hpass (hcrc.trans (hword.trans hframe.crcWord).symm)
  exact ⟨v, hexec, hcode, hvalid, hfrmCrc.trans hcrc, hresp⟩

/-- The verify reports ERR_CRC where the CRC of the data portion is not the CRC word's value. -/
theorem HoldsFrame.verify_rejects (hframe : HoldsFrame sh t cmd) (hsetup : SameFrameSetup t u)
    (hne : crc16 (u.ram.bytes t.arg0.toNat
        ((sh.words t.cfgChannels.toNat - 1) * t.cfgWidth.toNat)) ≠
      u.wordAt (t.arg0.toNat + (sh.words t.cfgChannels.toNat - 1) * t.cfgWidth.toNat)) :
    ∃ v, exec sh.verify u = .next v ∧ v.code = .errCrc ∧ v.frmValid = false ∧ v.frmResp = 0 := by
  obtain ⟨-, hchecked⟩ := hframe.verifiesFrame hsetup
  rw [hsetup.address, hsetup.params] at hchecked
  obtain ⟨-, hmismatch⟩ := hchecked hframe.inRam
  obtain ⟨v, ⟨hexec, hcode, -, hvalid, hresp, -⟩, -⟩ := hmismatch hne
  exact ⟨v, hexec, hcode, hvalid, hresp⟩

/-- The data portion and the CRC word, with its width, make up the frame. -/
theorem HoldsFrame.words_mul (hframe : HoldsFrame sh t cmd) :
    sh.words t.cfgChannels.toNat * t.cfgWidth.toNat =
        (sh.words t.cfgChannels.toNat - 1) * t.cfgWidth.toNat + t.cfgWidth.toNat ∧
      2 ≤ t.cfgWidth.toNat ∧ 2 ≤ (sh.words t.cfgChannels.toNat - 1) * t.cfgWidth.toNat := by
  obtain ⟨hw2, -⟩ := hframe.legal.bounds
  have hk2 := (sh.words_bounds t.cfgChannels).1
  refine ⟨?_, hw2, hw2.trans (Nat.le_mul_of_pos_left _ (by omega))⟩
  rw [← Nat.succ_mul]
  congr 1
  omega

end

/-- A word's value depends on its two bytes. -/
theorem wordAt_congr {s u : State} {a : Nat} (h : ∀ x, a ≤ x → x < a + 2 → u.ramByte x = s.ramByte x) :
    u.wordAt a = s.wordAt a := by
  rw [State.wordAt, State.wordAt, h a (by omega) (by omega), h (a + 1) (by omega) (by omega)]

/-- Settles O41: the verify reads the data portion and the CRC word that the build wrote. -/
theorem builtFramesVerify : Obligations.BuiltFramesVerify := by
  intro sh s t u h hok hsetup hsame
  have hframe := holdsFrame_of_build h hok
  obtain ⟨hmul, hw2, hdata2⟩ := hframe.words_mul
  rw [hmul] at hsame
  have hword (a : Nat) (ha : t.arg0.toNat ≤ a)
      (hlt : a + 2 ≤ t.arg0.toNat +
        ((sh.words t.cfgChannels.toNat - 1) * t.cfgWidth.toNat + t.cfgWidth.toNat)) :
      u.wordAt a = t.wordAt a :=
    wordAt_congr fun x h1 h2 => hsame x (by omega) (by omega)
  obtain ⟨v, hexec, hcode, hvalid, hcrc, hresp⟩ := hframe.verify_passes hsetup
    (Memory.bytes_congr _ _ _ _ fun x h1 h2 => hsame x h1 (by omega))
    (hword _ (by omega) (by omega))
  refine ⟨v, hexec, hcode, hvalid, hcrc, ?_⟩
  rw [hresp, hword _ (by omega) (by omega), hframe.command]

/-! ### One flipped bit (R183) -/

theorem append_ne_of_high {n k : Nat} {a b : BitVec n} (c : BitVec k) (h : a ≠ b) :
    a ++ c ≠ b ++ c := by
  intro heq
  refine h (BitVec.eq_of_getLsbD_eq fun j _ => ?_)
  simpa [BitVec.getLsbD_append] using congrArg (·.getLsbD (k + j)) heq

theorem append_ne_of_low {n k : Nat} {a b : BitVec k} (c : BitVec n) (h : a ≠ b) :
    c ++ a ≠ c ++ b := by
  intro heq
  refine h (BitVec.eq_of_getLsbD_eq fun j hj => ?_)
  simpa [BitVec.getLsbD_append, hj] using congrArg (·.getLsbD j) heq

/-- A flip in one of a word's two bytes changes its value. -/
theorem OneBitFlipped.wordAt_ne {s u : State} {a n k i b : Nat} (h : OneBitFlipped a n k i s u)
    (hi : i < 8) (hb : a ≤ b) (hn : b + 2 ≤ a + n) (hk : b ≤ a + k ∧ a + k < b + 2) :
    u.wordAt b ≠ s.wordAt b := by
  have hne : u.ramByte (a + k) ≠ s.ramByte (a + k) := h.read_ne hi
  obtain ⟨-, hsame⟩ := h
  obtain hat | hat : a + k = b ∨ a + k = b + 1 := by omega
  · rw [State.wordAt, State.wordAt, hsame (b + 1) (by omega) (by omega) (by omega)]
    exact append_ne_of_high _ (hat ▸ hne)
  · rw [State.wordAt, State.wordAt, hsame b (by omega) (by omega) (by omega)]
    exact append_ne_of_low _ (hat ▸ hne)

/-- Away from the flipped byte a word keeps its value. -/
theorem OneBitFlipped.wordAt_eq {s u : State} {a n k i b : Nat} (h : OneBitFlipped a n k i s u)
    (hb : a ≤ b) (hn : b + 2 ≤ a + n) (hk : ¬(b ≤ a + k ∧ a + k < b + 2)) :
    u.wordAt b = s.wordAt b := by
  obtain ⟨-, hsame⟩ := h
  exact wordAt_congr fun x h1 h2 => hsame x (by omega) (by omega) (by omega)

/-- Settles O42: a flip in the data portion changes its CRC and leaves the CRC word; one in the CRC
word's value changes that and leaves the data portion; the padding is read by neither. -/
theorem verifyDetectsOneFlippedBit : Obligations.VerifyDetectsOneFlippedBit := by
  intro sh s t u k i h hok hsetup hk hi hflip
  have hframe := holdsFrame_of_build h hok
  obtain ⟨hmul, hw2, -⟩ := hframe.words_mul
  rw [hmul] at hk hflip
  have hcrc := hframe.crc
  have hcrcWord := hframe.crcWord
  refine ⟨fun hvalue => hframe.verify_rejects hsetup ?_, fun hpad => ?_⟩
  · obtain hdata | hword := Nat.lt_or_ge k
      ((sh.words t.cfgChannels.toNat - 1) * t.cfgWidth.toNat)
    · rw [hflip.wordAt_eq (by omega) (by omega) (by omega), hcrcWord, ← hcrc]
      exact hflip.crc16_ne hi (by omega) hdata
    · rw [hflip.bytes_eq (Nat.le_refl _) (by omega) (by omega), hcrc, ← hcrcWord]
      exact (hflip.wordAt_ne hi (by omega) (by omega) (by omega)).symm
  · obtain ⟨v, hexec, hcode, hvalid, -⟩ := hframe.verify_passes hsetup
      (hflip.bytes_eq (Nat.le_refl _) (by omega) (by omega))
      (hflip.wordAt_eq (by omega) (by omega) (by omega))
    exact ⟨v, hexec, hcode, hvalid⟩

/-! ### The channel value (R186) -/

/-- One more byte of a big-endian value. -/
theorem ofNat_mul_add_byte (n x : Nat) (b : Byte) :
    BitVec.ofNat (n + 8) (x * 256 + b.toNat) = BitVec.ofNat n x ++ b := by
  have hb : b.toNat < 256 := b.isLt
  have hdiv : (x * 256 + b.toNat) / 2 ^ 8 = x := by omega
  have hmod : (x * 256 + b.toNat) % 2 ^ 8 = b.toNat := by omega
  apply BitVec.eq_of_toNat_eq
  rw [BitVec.toNat_append, BitVec.toNat_ofNat, BitVec.toNat_ofNat, ← Nat.shiftLeft_add_eq_or_of_lt hb,
    Nat.shiftLeft_eq, Nat.pow_add, Nat.mul_comm (2 ^ n), Nat.mod_mul, hdiv, hmod]
  ring

/-- The big-endian value of one byte is the byte. -/
theorem ofNat_zero_mul_add_byte (b : Byte) : BitVec.ofNat 8 (0 * 256 + b.toNat) = b := by
  simp

/-- Left-justified in a word and shifted back down, a value is sign-extended. -/
theorem sshiftRight_append_zero {n k : Nat} (hn : 0 < n) (v : BitVec n) :
    (v ++ (0 : BitVec k)).sshiftRight k = v.signExtend (n + k) := by
  apply BitVec.eq_of_getLsbD_eq
  intro j hj
  rw [BitVec.getLsbD_sshiftRight, BitVec.getLsbD_signExtend]
  simp only [BitVec.getLsbD_append, BitVec.msb_append]
  by_cases hjn : j < n
  · simp [hjn, hj, show k + j < n + k by omega, show ¬ n + k ≤ j by omega]
  · simp [hjn, hj, show ¬ k + j < n + k by omega, show ¬ n + k ≤ j by omega, hn.ne']

/-- Two zero bytes are a zero half. -/
theorem append_zero_byte_byte {n : Nat} (v : BitVec n) :
    v ++ (0 : Byte) ++ (0 : Byte) = v ++ (0 : Half) := by
  apply BitVec.eq_of_toNat_eq
  rw [BitVec.toNat_append, BitVec.toNat_append]
  refine Eq.trans ?_ (BitVec.toNat_append v (0 : Half)).symm
  simp [← Nat.shiftLeft_add]

/-- Settles O44: the bytes joined are the big-endian value; left-justified and shifted back they are
its sign extension. -/
theorem channelValueIsSignExtended : Obligations.ChannelValueIsSignExtended := by
  rintro w bytes (rfl | rfl | rfl) hlen
  · obtain ⟨a, b, rfl⟩ := List.length_eq_two.1 hlen
    have hvalue : BitVec.ofNat 16 ((0 * 256 + a.toNat) * 256 + b.toNat) = a ++ b := by
      rw [ofNat_mul_add_byte 8, ofNat_zero_mul_add_byte]
    calc (a ++ b ++ (0 : Byte) ++ (0 : Byte) : Word).sshiftRight 16
        = (a ++ b ++ (0 : Half) : Word).sshiftRight 16 := by rw [append_zero_byte_byte]
      _ = (a ++ b).signExtend 32 := sshiftRight_append_zero (by decide) _
      _ = _ := congrArg _ hvalue.symm
  · obtain ⟨a, b, c, rfl⟩ := List.length_eq_three.1 hlen
    have hvalue : BitVec.ofNat 24 (((0 * 256 + a.toNat) * 256 + b.toNat) * 256 + c.toNat) =
        a ++ b ++ c := by
      rw [ofNat_mul_add_byte 16, ofNat_mul_add_byte 8, ofNat_zero_mul_add_byte]
    calc (a ++ b ++ c ++ (0 : Byte) : Word).sshiftRight 8
        = (a ++ b ++ c).signExtend 32 := sshiftRight_append_zero (by decide) _
      _ = _ := congrArg _ hvalue.symm
  · obtain ⟨a, b, c, d, rfl⟩ : ∃ a b c d, bytes = [a, b, c, d] := by
      obtain _ | ⟨a, rest⟩ := bytes
      · cases hlen
      · obtain ⟨b, c, d, rfl⟩ := List.length_eq_three.1 (Nat.succ.inj hlen)
        exact ⟨a, b, c, d, rfl⟩
    have hvalue : BitVec.ofNat 32
        ((((0 * 256 + a.toNat) * 256 + b.toNat) * 256 + c.toNat) * 256 + d.toNat) =
        a ++ b ++ c ++ d := by
      rw [ofNat_mul_add_byte 24, ofNat_mul_add_byte 16, ofNat_mul_add_byte 8,
        ofNat_zero_mul_add_byte]
    calc (a ++ b ++ c ++ d : Word).sshiftRight 0
        = (a ++ b ++ c ++ d).signExtend 32 := by
          rw [BitVec.sshiftRight_zero, BitVec.signExtend_eq]
      _ = _ := congrArg _ hvalue.symm

end Sys2Proof.Machine
end

section
/-! PROOF. The laws of the encoder (spec/42_cobs_encoder.md): delimiter safety and length bounds of
`cobs_encode` (R121), and the agreement of the cursor machine with it (R127, R235). -/

namespace Sys2Proof.Machine

/-! ### Induction over the blocks of a payload (R120) -/

/-- What holds of a payload's last block, and passes from the rest of a payload to the payload with
one more block in front, holds of every payload. -/
theorem payload_induction {P : List Byte → Prop}
    (last : ∀ p : List Byte, p.length ≤ 254 → (0x00 : Byte) ∉ p → P p)
    (elided : ∀ q rest : List Byte, q.length < 254 → (0x00 : Byte) ∉ q → P rest →
      P (q ++ 0x00 :: rest))
    (full : ∀ (q : List Byte) (b : Byte) (rest : List Byte), q.length = 254 → (0x00 : Byte) ∉ q →
      P (b :: rest) → P (q ++ b :: rest)) (p : List Byte) : P p := by
  induction hn : p.length using Nat.strong_induction_on generalizing p with
  | _ n ih =>
    obtain ⟨hlen, hp⟩ | ⟨q, rest, hlen, hq, rfl⟩ | ⟨q, b, rest, hlen, hq, rfl⟩ :=
      payload_partition 254 p
    · exact last p hlen hp
    all_goals simp only [List.length_append, List.length_cons] at hn
    · exact elided q rest hlen hq (ih rest.length (by omega) rest rfl)
    · exact full q b rest hlen hq (ih (b :: rest).length (by simp only [List.length_cons]; omega) _ rfl)

theorem cobsEncode_last {p : List Byte} (hlen : p.length ≤ 254) (hp : (0x00 : Byte) ∉ p) :
    cobsEncode p = BitVec.ofNat 8 (p.length + 1) :: p ++ [0x00] :=
  cobsEncodeFollowsItsBlocks.1 p hlen hp

theorem cobsEncode_elided {q : List Byte} (rest : List Byte) (hlen : q.length < 254)
    (hq : (0x00 : Byte) ∉ q) :
    cobsEncode (q ++ 0x00 :: rest) = BitVec.ofNat 8 (q.length + 1) :: q ++ cobsEncode rest :=
  cobsEncodeFollowsItsBlocks.2.1 q rest hlen hq

theorem cobsEncode_full {q : List Byte} (b : Byte) (rest : List Byte) (hlen : q.length = 254)
    (hq : (0x00 : Byte) ∉ q) :
    cobsEncode (q ++ b :: rest) = BitVec.ofNat 8 (q.length + 1) :: q ++ cobsEncode (b :: rest) := by
  rw [hlen]
  exact cobsEncodeFollowsItsBlocks.2.2 q b rest hlen hq

/-- No code byte is 0x00. -/
theorem codeByte_ne_zero {n : Nat} (h : n ≤ 254) : BitVec.ofNat 8 (n + 1) ≠ 0x00 := by
  intro heq
  have hnat : (n + 1) % 256 = 0 := by simpa using congrArg BitVec.toNat heq
  omega

/-- A block of an encoding, code byte and data, holds no 0x00. -/
theorem zero_notMem_block {q : List Byte} (hlen : q.length ≤ 254) (hq : (0x00 : Byte) ∉ q) :
    (0x00 : Byte) ∉ BitVec.ofNat 8 (q.length + 1) :: q :=
  List.not_mem_cons_of_ne_of_not_mem (codeByte_ne_zero hlen).symm hq

/-- Settles O24: block by block. -/
theorem cobsEncodeIsDelimiterSafe : Obligations.CobsEncodeIsDelimiterSafe := by
  intro p
  induction p using payload_induction with
  | last p hlen hp => exact ⟨_, cobsEncode_last hlen hp, zero_notMem_block hlen hp⟩
  | elided q rest hlen hq ih =>
    obtain ⟨body, hbody, hno⟩ := ih
    refine ⟨(_ :: q) ++ body, by rw [cobsEncode_elided rest hlen hq, hbody, List.append_assoc], ?_⟩
    exact fun h => (List.mem_append.1 h).elim (zero_notMem_block hlen.le hq) hno
  | full q b rest hlen hq ih =>
    obtain ⟨body, hbody, hno⟩ := ih
    refine ⟨(_ :: q) ++ body, by rw [cobsEncode_full b rest hlen hq, hbody, List.append_assoc], ?_⟩
    exact fun h => (List.mem_append.1 h).elim (zero_notMem_block hlen.le hq) hno

/-- The two bounds, the empty payload included: each full block in front of more payload costs one
byte. -/
theorem length_cobsEncode_bounds (p : List Byte) :
    p.length + 2 ≤ (cobsEncode p).length ∧
      (cobsEncode p).length ≤ p.length + 2 + (p.length - 1) / 254 := by
  induction p using payload_induction with
  | last p hlen hp =>
    simp only [cobsEncode_last hlen hp, List.length_append, List.length_cons, List.length_nil]
    omega
  | elided q rest hlen hq ih =>
    simp only [cobsEncode_elided rest hlen hq, List.length_append, List.length_cons]
    omega
  | full q b rest hlen hq ih =>
    simp only [cobsEncode_full b rest hlen hq, List.length_append, List.length_cons] at ih ⊢
    omega

/-- Settles O25: the bounds for every payload; on the empty one the encoder evaluates. -/
theorem cobsEncodeLengthBounds : Obligations.CobsEncodeLengthBounds :=
  ⟨rfl, fun p _ => length_cobsEncode_bounds p⟩

/-! ### What the cursor has yet to emit (R122) -/

/-- What follows a block that elides no zero, `p` being the payload behind it. -/
def restOf : List Byte → List Byte
  | [] => [0x00]
  | b :: rest => cobsEncode (b :: rest)

/-- What is left of an encoding inside a block: `blk` more bytes of the payload `p` left, then what
follows the block, behind an elided zero where `z` says so. -/
def blockRest (blk : Nat) (z : Bool) (p : List Byte) : List Byte :=
  p.take blk ++ if z then cobsEncode (p.drop (blk + 1)) else restOf (p.drop blk)

/-- What is left of an encoding in each state of the encoder, `p` being the payload left. -/
def EncSt.pending (st : EncSt) (blk : Nat) (z : Bool) (p : List Byte) : List Byte :=
  match st with
  | .done => []
  | .term => [0x00]
  | .code => cobsEncode p
  | .data => blockRest blk z p

/-- The payload bytes the cursor has not consumed. -/
def State.remaining (s : State) : List Byte := s.ram.bytes s.encPtr.toNat s.encRem.toNat

/-- The bytes the pulls have yet to return. -/
def State.pending (s : State) : List Byte :=
  s.encSt.pending s.encBlk.toNat s.encZero s.remaining

theorem State.pending_eq {s : State} {st : EncSt} {blk : Nat} {z : Bool} {p : List Byte}
    (hst : s.encSt = st) (hblk : s.encBlk.toNat = blk) (hz : s.encZero = z) (hp : s.remaining = p) :
    s.pending = st.pending blk z p := by
  rw [State.pending, hst, hblk, hz, hp]

theorem blockRest_succ (k : Nat) (z : Bool) (b : Byte) (p : List Byte) :
    blockRest (k + 1) z (b :: p) = b :: blockRest k z p := rfl

theorem blockRest_zero_elided (b : Byte) (p : List Byte) :
    blockRest 0 true (b :: p) = cobsEncode p := rfl

theorem blockRest_zero_plain (p : List Byte) : blockRest 0 false p = restOf p := rfl

theorem restOf_of_ne_nil {p : List Byte} (h : p ≠ []) : restOf p = cobsEncode p := by
  cases p with
  | nil => exact absurd rfl h
  | cons b rest => rfl

/-- A payload whose first block the code scan has found is encoded as that block and what follows. -/
theorem cobsEncode_eq_blockRest {p : List Byte} {l : Nat} {z : Bool}
    (hne : (0x00 : Byte) ∉ p.take l)
    (hzero : z = true → l < min 254 p.length ∧ p[l]? = some 0x00)
    (hend : z = false → l = min 254 p.length) :
    cobsEncode p = BitVec.ofNat 8 (l + 1) :: blockRest l z p := by
  have hsplit {b : Byte} (hb : p[l]? = some b) : p = p.take l ++ b :: p.drop (l + 1) := by
    obtain ⟨hlt, rfl⟩ := List.getElem?_eq_some_iff.1 hb
    rw [List.getElem_cons_drop, List.take_append_drop]
  cases z with
  | true =>
    obtain ⟨hlt, hb⟩ := hzero rfl
    have hlen : (p.take l).length = l := by rw [List.length_take]; omega
    conv_lhs => rw [hsplit hb]
    rw [cobsEncode_elided _ (by omega) hne, hlen]
    rfl
  | false =>
    have hl := hend rfl
    rcases Nat.lt_or_ge 254 p.length with hmore | hless
    · have hl254 : l = 254 := by omega
      subst hl254
      obtain ⟨b, hb⟩ : ∃ b, p[254]? = some b := ⟨_, List.getElem?_eq_getElem hmore⟩
      have hlen : (p.take 254).length = 254 := by rw [List.length_take]; omega
      conv_lhs => rw [hsplit hb]
      rw [cobsEncode_full _ _ hlen hne, hlen, blockRest, restOf_of_ne_nil]
      · have hdrop : p.drop 254 = b :: p.drop 255 := by
          obtain ⟨hlt, rfl⟩ := List.getElem?_eq_some_iff.1 hb
          exact (List.getElem_cons_drop hlt).symm
        rw [hdrop]
        rfl
      · simpa using hmore
    · have hlp : l = p.length := by omega
      subst hlp
      rw [List.take_length] at hne
      rw [cobsEncode_last hless hne, blockRest, List.take_length, List.drop_length]
      rfl

/-! ### One pull (R124, R125) -/

theorem remaining_eq_cons {s u : State} (hram : u.ram = s.ram)
    (hptr : u.encPtr.toNat = s.encPtr.toNat + 1) (hrem : u.encRem.toNat + 1 = s.encRem.toNat) :
    s.remaining = s.ramByte s.encPtr.toNat :: u.remaining := by
  rw [State.remaining, State.remaining, ← hrem, hptr, hram]
  rfl

theorem remaining_eq_cons_cons {s u : State} (hram : u.ram = s.ram)
    (hptr : u.encPtr.toNat = s.encPtr.toNat + 2) (hrem : u.encRem.toNat + 2 = s.encRem.toNat) :
    s.remaining =
      s.ramByte s.encPtr.toNat :: s.ramByte (s.encPtr.toNat + 1) :: u.remaining := by
  rw [State.remaining, State.remaining, ← hrem, hptr, hram]
  rfl

theorem remaining_eq_nil {s : State} (h : s.encRem.toNat = 0) : s.remaining = [] := by
  rw [State.remaining, h]
  rfl

/-- The code scan speaks of the payload left. -/
theorem ScanFinds.cobsEncode_remaining {s : State} {l : Nat} {z : Bool}
    (h : ScanFinds s s.encPtr.toNat (min 254 s.encRem.toNat) l z) :
    cobsEncode s.remaining = BitVec.ofNat 8 (l + 1) :: blockRest l z s.remaining := by
  have hle := h.le
  obtain ⟨hne, hzero, hend⟩ := h
  have hlen : s.remaining.length = s.encRem.toNat := Memory.length_bytes _ _ _
  have hget {j : Nat} (hj : j < s.encRem.toNat) :
      s.remaining[j]? = some (s.ramByte (s.encPtr.toNat + j)) := by
    rw [List.getElem?_eq_getElem (hlen ▸ hj)]
    exact congrArg some (Memory.getElem_bytes _ _ _ _ _)
  refine cobsEncode_eq_blockRest (fun hmem => ?_) (fun hz => ?_) fun hz => ?_
  · obtain ⟨j, hj, hb⟩ := List.mem_take_iff_getElem.1 hmem
    have hb' := List.getElem?_eq_some_iff.2 ⟨by omega, hb⟩
    rw [hget (by omega)] at hb'
    exact hne j (by omega) (Option.some.inj hb')
  · obtain ⟨hlt, hb⟩ := hzero hz
    exact ⟨hlen.symm ▸ hlt, by rw [hget (by omega), hb]⟩
  · rw [hlen]
    exact hend hz

theorem pending_pullCode {s : State} {l : Nat} {z : Bool} (hst : s.encSt = .code)
    (hcur : s.encPtr.toNat + s.encRem.toNat ≤ 65536)
    (hfinds : ScanFinds s s.encPtr.toNat (min 254 s.encRem.toNat) l z) :
    s.pending = (s.pullCode l z).encOut :: (s.pullCode l z).pending := by
  have hram := s.pullCode_ram l z
  rw [State.pending_eq hst rfl rfl rfl, EncSt.pending, hfinds.cobsEncode_remaining, pullCode_encOut]
  congr 1
  obtain ⟨-, hblock, hzero, hlast⟩ := pullCode_follows hcur hfinds
  obtain ⟨-, hat, hend⟩ := hfinds
  rcases Nat.eq_zero_or_pos l with rfl | hl
  · cases z with
    | true =>
      obtain ⟨hst, -, -, hptr, hrem⟩ := hzero rfl rfl
      rw [State.pending_eq hst rfl rfl rfl, remaining_eq_cons hram hptr hrem, blockRest_zero_elided]
      rfl
    | false =>
      obtain ⟨hst, -⟩ := hlast rfl rfl
      have := hend rfl
      rw [State.pending_eq hst rfl rfl rfl, remaining_eq_nil (by omega)]
      rfl
  · obtain ⟨hst, hblk, hz, hptr, hrem⟩ := hblock hl
    have hsame : (s.pullCode l z).remaining = s.remaining := by
      rw [State.remaining, State.remaining, hptr, hrem, hram]
    rw [State.pending_eq hst hblk hz hsame]
    rfl

theorem pending_pullData {s : State} (hinv : EncInv s) (hst : s.encSt = .data)
    (hcur : s.encPtr.toNat + s.encRem.toNat ≤ 65536) :
    s.pending = s.ramByte s.encPtr.toNat :: (s.pullData (s.ramByte s.encPtr.toNat)).pending := by
  generalize hb : s.ramByte s.encPtr.toNat = b
  have hram := s.pullData_ram b
  obtain ⟨hblk1, -, -⟩ := hinv.dataBlock hst
  obtain ⟨hinside, hlast⟩ := pullData_follows b hinv hst hcur
  rcases hblk1.eq_or_lt with hone | hmore
  · rw [State.pending_eq hst hone.symm rfl rfl]
    obtain ⟨-, -, helided, hplain⟩ := hlast hone.symm
    cases hz : s.encZero with
    | true =>
      obtain ⟨hst', hptr, hrem⟩ := helided hz
      rw [State.pending_eq hst' rfl rfl rfl, remaining_eq_cons_cons hram hptr hrem, hb]
      rfl
    | false =>
      obtain ⟨hst', hptr, hrem⟩ := hplain hz
      rw [State.pending_eq hst' rfl rfl rfl, remaining_eq_cons hram hptr hrem, hb, EncSt.pending,
        blockRest_succ, blockRest_zero_plain]
      congr 1
      split_ifs with hr
      · rw [remaining_eq_nil (by omega)]
        rfl
      · have hne : (s.pullData b).remaining ≠ [] := by
          rw [← List.length_pos_iff_ne_nil, State.remaining, Memory.length_bytes]
          omega
        exact restOf_of_ne_nil hne
  · obtain ⟨hst', hblk, hz, hptr, hrem⟩ := hinside hmore
    rw [State.pending_eq hst hblk.symm rfl rfl, State.pending_eq hst' rfl hz rfl,
      remaining_eq_cons hram hptr hrem, hb]
    rfl

/-! ### Along the pulls of a payload (R127, R235) -/

/-- The cursor is on its way through the `n` payload bytes at `a`. -/
structure Pulling (a n : Nat) (s : State) : Prop where
  params : s.params.wellFormed = true
  enc : EncInv s
  start : a ≤ s.encPtr.toNat
  stop : s.encPtr.toNat + s.encRem.toNat = a + n

section
variable {a n : Nat} {s : State}

theorem Pulling.cursor_le (h : Pulling a n s) : s.encPtr.toNat + s.encRem.toNat ≤ 65536 :=
  h.enc.cursorInRam.trans (ramSize_le_of_wellFormed h.params)

/-- A pull moves the cursor on and never past the end. -/
theorem Pulling.of_exec {v : State} (h : Pulling a n s) (hexec : exec .encPull s = .next v)
    (hstart : s.encPtr.toNat ≤ v.encPtr.toNat)
    (hstop : v.encPtr.toNat + v.encRem.toNat = s.encPtr.toNat + s.encRem.toNat) :
    Pulling a n v :=
  ⟨exec_params_eq hexec ▸ h.params, (ends_of_exec hexec).encInv h.params h.enc,
    h.start.trans hstart, hstop.trans h.stop⟩

theorem pullCode_cursor {l : Nat} {z : Bool} (hcur : s.encPtr.toNat + s.encRem.toNat ≤ 65536)
    (hfinds : ScanFinds s s.encPtr.toNat (min 254 s.encRem.toNat) l z) :
    s.encPtr.toNat ≤ (s.pullCode l z).encPtr.toNat ∧
      (s.pullCode l z).encPtr.toNat + (s.pullCode l z).encRem.toNat =
        s.encPtr.toNat + s.encRem.toNat := by
  obtain ⟨-, hblock, hzero, hlast⟩ := pullCode_follows hcur hfinds
  rcases Nat.eq_zero_or_pos l with hl | hl
  · cases z with
    | true =>
      obtain ⟨-, -, -, hptr, hrem⟩ := hzero hl rfl
      omega
    | false =>
      obtain ⟨-, -, -, hptr, hrem⟩ := hlast hl rfl
      rw [hptr, hrem]
      exact ⟨Nat.le_refl _, rfl⟩
  · obtain ⟨-, -, -, hptr, hrem⟩ := hblock hl
    rw [hptr, hrem]
    exact ⟨Nat.le_refl _, rfl⟩

theorem pullData_cursor (b : Byte) (hinv : EncInv s) (hst : s.encSt = .data)
    (hcur : s.encPtr.toNat + s.encRem.toNat ≤ 65536) :
    s.encPtr.toNat ≤ (s.pullData b).encPtr.toNat ∧
      (s.pullData b).encPtr.toNat + (s.pullData b).encRem.toNat =
        s.encPtr.toNat + s.encRem.toNat := by
  obtain ⟨hblk1, -, -⟩ := hinv.dataBlock hst
  obtain ⟨hinside, hlast⟩ := pullData_follows b hinv hst hcur
  rcases hblk1.eq_or_lt with hone | hmore
  · obtain ⟨-, -, helided, hplain⟩ := hlast hone.symm
    cases hz : s.encZero with
    | true =>
      obtain ⟨-, hptr, hrem⟩ := helided hz
      omega
    | false =>
      obtain ⟨-, hptr, hrem⟩ := hplain hz
      omega
  · obtain ⟨-, -, -, hptr, hrem⟩ := hinside hmore
    omega

/-- One pull: in DONE it reports the end, elsewhere it returns the first of the bytes to come. -/
theorem Pulling.pull (h : Pulling a n s) :
    ∃ v, exec .encPull s = .next v ∧ Pulling a n v ∧
      (s.pending = [] ∧ v.code = .encEnd ∨
        v.code = .encByte ∧ s.pending = v.encOut :: v.pending) := by
  have hcur := h.cursor_le
  cases hst : s.encSt with
  | done =>
    have hexec := exec_encPull_done hst
    exact ⟨_, hexec, h.of_exec hexec (Nat.le_refl _) rfl,
      .inl ⟨State.pending_eq hst rfl rfl rfl, rfl⟩⟩
  | term =>
    have hexec := exec_encPull_term hst
    exact ⟨_, hexec, h.of_exec hexec (Nat.le_refl _) rfl,
      .inr ⟨rfl, State.pending_eq hst rfl rfl rfl⟩⟩
  | code =>
    have hin := h.enc.cursorInRam
    obtain ⟨l, z, hscan, hfinds⟩ := scanZero_ok (s := s) (a := s.encPtr.toNat)
      (m := min 254 s.encRem.toNat) (by omega)
    have hexec := exec_encPull_code hst hscan
    obtain ⟨hstart, hstop⟩ := pullCode_cursor hcur hfinds
    exact ⟨_, hexec, h.of_exec hexec hstart hstop, .inr ⟨rfl, pending_pullCode hst hcur hfinds⟩⟩
  | data =>
    have hin := h.enc.cursorInRam
    have hblk := h.enc.dataBlock hst
    have hexec := exec_encPull_data hst (by omega)
    obtain ⟨hstart, hstop⟩ := pullData_cursor (s.ramByte s.encPtr.toNat) h.enc hst hcur
    refine ⟨_, hexec, h.of_exec hexec hstart hstop, .inr ⟨rfl, ?_⟩⟩
    rw [State.complete_encOut, pullData_encOut]
    exact pending_pullData h.enc hst hcur

/-- Quiet activity changes neither the cursor nor the bytes to come. -/
theorem Pulling.quiet {q : State} (h : Pulling a n s) (hq : Quiet a n s q) :
    Pulling a n q ∧ q.pending = s.pending := by
  obtain ⟨hparams, hst, hblk, hz, hptr, hrem, hpayload⟩ := hq
  refine ⟨⟨hparams ▸ h.params, h.enc.congr hparams hst hblk hz hptr hrem, hptr ▸ h.start, ?_⟩, ?_⟩
  · rw [hptr, hrem]
    exact h.stop
  · have hsame : q.remaining = s.remaining := by
      rw [State.remaining, State.remaining, hptr, hrem]
      have hstart := h.start
      have hstop := h.stop
      exact Memory.bytes_congr _ _ _ _ fun x h1 h2 => hpayload x (by omega) (by omega)
    rw [State.pending_eq hst (congrArg _ hblk) hz hsame]
    rfl

theorem quiet_refl (a n : Nat) (s : State) : Quiet a n s s :=
  ⟨rfl, rfl, rfl, rfl, rfl, rfl, fun _ _ _ => rfl⟩

/-- The bytes of a trace of pulls are the first of the bytes to come. -/
theorem Pulling.of_trace {u : State} {bytes : List Byte} (h : Pulling a n s)
    (htrace : PullTrace a n s bytes u) : Pulling a n u ∧ s.pending = bytes ++ u.pending := by
  induction htrace with
  | rest hq =>
    obtain ⟨hu, hpending⟩ := h.quiet hq
    exact ⟨hu, hpending.symm⟩
  | pull hq hexec hcode _ ih =>
    obtain ⟨hquiet, hpending⟩ := h.quiet hq
    obtain ⟨v, hv, hpulling, ⟨-, hend⟩ | ⟨-, hcons⟩⟩ := hquiet.pull
    · cases hexec.symm.trans hv
      cases hcode.symm.trans hend
    · cases hexec.symm.trans hv
      obtain ⟨hu, htail⟩ := ih hpulling
      exact ⟨hu, by rw [← hpending, hcons, htail, List.cons_append]⟩

/-- Pulls with nothing between them return all the bytes to come. -/
theorem Pulling.exists_trace (h : Pulling a n s) : ∃ u, PullTrace a n s s.pending u := by
  generalize hp : s.pending = bytes
  induction bytes generalizing s with
  | nil => exact ⟨s, .rest (quiet_refl a n s)⟩
  | cons b bytes ih =>
    obtain ⟨v, hexec, hv, ⟨hnil, -⟩ | ⟨hcode, hcons⟩⟩ := h.pull
    · cases hnil.symm.trans hp
    · obtain ⟨rfl, htail⟩ := List.cons.inj (hcons.symm.trans hp)
      obtain ⟨u, hu⟩ := ih hv htail
      exact ⟨u, .pull (quiet_refl a n s) hexec hcode hu⟩

end

/-- ENC_START leaves the whole encoding of its payload to come. -/
theorem pulling_encStarted {s : State} (hparams : s.params.wellFormed = true)
    (hfits : s.arg0.toNat + s.arg1.toNat ≤ s.params.ramSize) (c : Code) :
    Pulling s.arg0.toNat s.arg1.toNat (s.encStarted.complete c) ∧
      (s.encStarted.complete c).pending = cobsEncode (s.ram.bytes s.arg0.toNat s.arg1.toNat) :=
  ⟨⟨hparams, .of_no_block hfits (by simp [State.encStarted]) rfl rfl (by simp [State.encStarted]),
    Nat.le_refl _, rfl⟩, rfl⟩

/-- Settles O26: each pull takes one byte off the bytes to come, which after ENC_START are the
encoding. -/
theorem pullsEmitTheEncoding : Obligations.PullsEmitTheEncoding := by
  intro s hparams hfits
  obtain ⟨hpulling, hpending⟩ := pulling_encStarted hparams hfits .ok
  refine ⟨_, exec_encStart_of_le hfits, fun bytes u htrace => ?_, fun bytes u v htrace hexec => ?_,
    hpending ▸ hpulling.exists_trace⟩
  all_goals
    obtain ⟨hu, hbytes⟩ := hpulling.of_trace htrace
    rw [hpending] at hbytes
    rw [hbytes]
  · exact ⟨u.pending, rfl⟩
  · obtain ⟨v', hv', -, ⟨hnil, hend⟩ | ⟨hcode, hcons⟩⟩ := hu.pull
    · cases hexec.symm.trans hv'
      simp [hnil, hend]
    · cases hexec.symm.trans hv'
      simp [hcons, hcode]

end Sys2Proof.Machine
end

section
/-! PROOF. The laws of the decoder (spec/43_cobs_decoder.md, section 4): resynchronisation, the frame
of DEC_PUSH, and what pushing an encoding gives: the payload where it fits (R151), the overflow
outcome where it does not (R150). -/

namespace Sys2Proof.Machine

/-! ### One push -/

/-- Settles O29: the three rows for 0x00 end in IDLE and write no byte. -/
theorem delimiterResynchronisesTheDecoder : Obligations.DelimiterResynchronisesTheDecoder := by
  intro s
  by_cases hst : s.decSt = .idle
  · exact ⟨_, exec_decPush_stray hst, hst, fun _ => rfl, fun hinv => hinv.idleClear hst⟩
  by_cases hcnt : s.decCnt = 0#8
  · obtain ⟨t, ⟨hexec, -⟩, hidle, hcnt', hovf, hram, -⟩ := decPush_frameEnd hst hcnt
    exact ⟨t, hexec, hidle, hram, fun _ => ⟨hcnt', hovf⟩⟩
  · obtain ⟨t, ⟨hexec, -⟩, -, hidle, hcnt', hovf, -, hram⟩ := decPush_malformed hst hcnt
    exact ⟨t, hexec, hidle, hram, fun _ => ⟨hcnt', hovf⟩⟩

/-- Nothing but the destination is written, and nothing at all but by a push that reports DEC_DATA. -/
def StaysInDestination (s t : State) : Prop :=
  SameRamOutside s.decBase.toNat s.decCap.toNat s t ∧ (t.code ≠ .decData → SameRam s t)

theorem SameRam.staysInDestination {s t : State} (h : SameRam s t) : StaysInDestination s t :=
  ⟨fun x _ => h x, fun _ => h⟩

theorem Emitted.staysInDestination {s t : State} {v : Byte} (h : Emitted s t v) :
    StaysInDestination s t := by
  obtain ⟨hstore, hdrop⟩ := h
  by_cases hroom : s.decOvf = false ∧ s.decLen.toNat < s.decCap.toNat
  · obtain ⟨hcode, -, -, -, houtside⟩ := hstore hroom
    exact ⟨fun x hx => houtside x (by omega), fun hno => absurd hcode hno⟩
  · obtain ⟨-, -, -, hram⟩ := hdrop hroom
    exact hram.staysInDestination

/-- Settles O30: row by row of R140; the rows that emit write the one byte of R141. -/
theorem decPushStaysInItsDestination : Obligations.DecPushStaysInItsDestination := by
  intro b s hinv
  obtain ⟨-, t, ⟨hexec, -⟩, hstray, hstart, hend, hshort, hfull, hmalformed, hliteral⟩ :=
    decPushFollowsItsTable b s hinv
  refine ⟨t, hexec, ?_⟩
  by_cases hst : s.decSt = .idle <;> by_cases hb : b = 0x00
  · exact SameRam.staysInDestination (hstray hst hb).2.2
  · obtain ⟨-, -, -, -, hram⟩ := hstart hst hb
    exact hram.staysInDestination
  · by_cases hcnt : s.decCnt = 0
    · obtain ⟨-, -, -, hram, -⟩ := hend hst hcnt hb
      exact hram.staysInDestination
    · obtain ⟨-, -, -, -, -, hram⟩ := hmalformed hst hcnt hb
      exact hram.staysInDestination
  · by_cases hcnt : s.decCnt = 0
    · cases hblock : s.decSt with
      | idle => exact absurd hblock hst
      | block => exact (hshort hblock hcnt hb).1.staysInDestination
      | pblock =>
        obtain ⟨-, -, -, -, hram⟩ := hfull hblock hcnt hb
        exact hram.staysInDestination
    · exact (hliteral hst hcnt hb).1.staysInDestination

/-! ### Sequences of commands -/

theorem runCodes_cons {i : Instr} {rest : List Instr} {s t u : State} {codes : List Code}
    (h : exec i s = .next t) (hrest : runCodes rest t = some (codes, u)) :
    runCodes (i :: rest) s = some (t.code :: codes, u) := by
  simp only [runCodes, h, hrest, Option.map_some]

theorem runCodes_append {is js : List Instr} {s t u : State} {codes codes' : List Code}
    (h : runCodes is s = some (codes, t)) (h' : runCodes js t = some (codes', u)) :
    runCodes (is ++ js) s = some (codes ++ codes', u) := by
  induction is generalizing s codes with
  | nil =>
    cases h
    exact h'
  | cons i is ih =>
    rw [runCodes] at h
    split at h
    · next v hexec =>
      obtain ⟨⟨later, w⟩, hrun, heq⟩ := Option.map_eq_some_iff.1 h
      cases heq
      exact runCodes_cons hexec (ih hrun)
    · cases h
    · cases h

/-! ### The codes of the outputs (R141) -/

/-- The code of the output that `n` outputs of the frame precede, `cap` being the capacity. -/
def emitCode (cap n : Nat) : Code := if n < cap then .decData else .errOverflow

/-- The codes of `k` outputs, the first of them preceded by `n`. -/
def emitCodes (cap n k : Nat) : List Code := (List.range' n k).map (emitCode cap)

/-- The codes that report an output. -/
def Code.isOutput (c : Code) : Bool := c == .decData || c == .errOverflow

theorem emitCodes_succ (cap n k : Nat) :
    emitCodes cap n (k + 1) = emitCode cap n :: emitCodes cap (n + 1) k := by
  rw [emitCodes, List.range'_succ, List.map_cons]
  rfl

theorem emitCodes_add (cap n j k : Nat) :
    emitCodes cap n (j + k) = emitCodes cap n j ++ emitCodes cap (n + j) k := by
  rw [emitCodes, ← List.range'_append_1, List.map_append]
  rfl

theorem isOutput_emitCode (cap n : Nat) : (emitCode cap n).isOutput = true := by
  unfold emitCode
  split <;> rfl

theorem filter_emitCodes (cap n k : Nat) :
    (emitCodes cap n k).filter Code.isOutput = emitCodes cap n k := by
  refine List.filter_eq_self.2 fun c hc => ?_
  obtain ⟨j, -, rfl⟩ := List.mem_map.1 hc
  exact isOutput_emitCode cap j

/-- While there is room every output is stored. -/
theorem emitCodes_of_le {cap n k : Nat} (h : n + k ≤ cap) :
    emitCodes cap n k = List.replicate k .decData := by
  refine List.eq_replicate_iff.2 ⟨by simp [emitCodes], fun c hc => ?_⟩
  obtain ⟨j, hj, rfl⟩ := List.mem_map.1 hc
  rw [List.mem_range'_1] at hj
  exact if_pos (by omega)

/-- From the capacity on every output is dropped. -/
theorem emitCodes_of_ge {cap n k : Nat} (h : cap ≤ n) :
    emitCodes cap n k = List.replicate k .errOverflow := by
  refine List.eq_replicate_iff.2 ⟨by simp [emitCodes], fun c hc => ?_⟩
  obtain ⟨j, hj, rfl⟩ := List.mem_map.1 hc
  rw [List.mem_range'_1] at hj
  exact if_neg (by omega)

/-! ### A frame on its way -/

theorem Memory.writeBytes_concat (m : Memory) (a : Nat) (vs : List Byte) (v : Byte) :
    m.writeBytes a (vs ++ [v]) = (m.writeBytes a vs).write (a + vs.length) v := by
  induction vs generalizing m a with
  | nil => rfl
  | cons w vs ih =>
    rw [List.cons_append, Memory.writeBytes, ih, Memory.writeBytes, List.length_cons,
      Nat.add_right_comm, Nat.add_assoc]

/-- In `s`, the decoder of `s₀` has put out `out` since the frame's start: as much of it as fits
stands in the destination, and OVF says whether that is less than all. -/
structure Decoded (s₀ : State) (out : List Byte) (s : State) : Prop where
  params : s.params = s₀.params
  base : s.decBase = s₀.decBase
  cap : s.decCap = s₀.decCap
  len : s.decLen.toNat = min out.length s₀.decCap.toNat
  ovf : s.decOvf = decide (s₀.decCap.toNat < out.length)
  ram : s.ram = s₀.ram.writeBytes s₀.decBase.toNat (out.take s₀.decCap.toNat)

section
variable {s₀ s : State} {out : List Byte}

theorem Decoded.enterBlock (h : Decoded s₀ out s) (b : Byte) (c : Code) :
    Decoded s₀ out ((s.enterBlock b).complete c) := by
  obtain ⟨hparams, hbase, hcap, hlen, hovf, hram⟩ := h
  constructor <;> simpa

theorem Decoded.emit (h : Decoded s₀ out s)
    (hdest : s₀.decBase.toNat + s₀.decCap.toNat ≤ s₀.params.ramSize) (v : Byte) :
    ∃ u, s.emit v = .ok (u, emitCode s₀.decCap.toNat out.length) ∧ Decoded s₀ (out ++ [v]) u ∧
      u.decSt = s.decSt := by
  obtain ⟨hparams, hbase, hcap, hlen, hovf, hram⟩ := h
  obtain ⟨⟨u, c⟩, hemit⟩ := emit_ok v (s := s) (by rwa [hparams, hbase, hcap])
  have hroom : s.decOvf = false ∧ s.decLen < s.decCap ↔ out.length < s₀.decCap.toNat := by
    rw [hovf, decide_eq_false_iff_not, BitVec.lt_def, hlen, hcap]
    omega
  have hone : (out ++ [v]).length = out.length + 1 := by simp
  refine ⟨u, ?_, ?_, emit_decSt hemit⟩
  all_goals obtain ⟨h1, h2, rfl, -, rfl⟩ | ⟨hno, rfl, rfl⟩ := emit_cases hemit
  · rw [hemit, emitCode, if_pos (hroom.1 ⟨h1, h2⟩)]
  · rw [hemit, emitCode, if_neg fun h => hno (hroom.2 h)]
  · have hlt := hroom.1 ⟨h1, h2⟩
    refine ⟨hparams, hbase, hcap, ?_, ?_, ?_⟩
    · simp only [hone]
      bv_omega
    · simp only [hone, h1]
      simpa using hlt
    · simp only [hram, hbase, hlen]
      rw [List.take_of_length_le hlt.le, List.take_of_length_le (by omega), Nat.min_eq_left hlt.le,
        Memory.writeBytes_concat]
  · have hge : s₀.decCap.toNat ≤ out.length := Nat.not_lt.1 fun h => hno (hroom.2 h)
    refine ⟨hparams, hbase, hcap, ?_, ?_, ?_⟩
    · simp only [hone, hlen]
      omega
    · simp only [hone]
      simpa using by omega
    · simp only [hram]
      rw [List.take_append_of_le_length hge]

/-- The data bytes of a block are put out one by one. -/
theorem Decoded.push_literals (h : Decoded s₀ out s)
    (hdest : s₀.decBase.toNat + s₀.decCap.toNat ≤ s₀.params.ramSize) (hst : s.decSt ≠ .idle)
    {q : List Byte} (hq : (0x00 : Byte) ∉ q) (hcnt : s.decCnt.toNat = q.length) :
    ∃ t, runCodes (q.map Instr.decPush) s =
        some (emitCodes s₀.decCap.toNat out.length q.length, t) ∧
      Decoded s₀ (out ++ q) t ∧ t.decSt = s.decSt ∧ t.decCnt = 0 := by
  induction q generalizing s out with
  | nil => exact ⟨s, rfl, by rwa [List.append_nil], rfl, BitVec.eq_of_toNat_eq hcnt⟩
  | cons b q ih =>
    obtain ⟨hb, hq⟩ := List.ne_and_not_mem_of_not_mem_cons hq
    rw [List.length_cons] at hcnt
    obtain ⟨u, hemit, hu, hust⟩ := h.emit hdest b
    have hexec := exec_decPush_literal (b := b) hst (by bv_omega) hb.symm
    rw [State.literal, hemit, orFault_ok] at hexec
    obtain ⟨hparams, hbase, hcap, hlen, hovf, hram⟩ := hu
    obtain ⟨t, hrun, ht, htst, htcnt⟩ := ih
      (s := State.complete { u with decCnt := s.decCnt - 1 } (emitCode s₀.decCap.toNat out.length))
      ⟨hparams, hbase, hcap, hlen, hovf, hram⟩ (hust ▸ hst) hq
      (by simp only [State.complete_decCnt]; bv_omega)
    refine ⟨t, ?_, by rwa [List.append_assoc] at ht, htst.trans hust, htcnt⟩
    rw [List.length_append] at hrun
    rw [List.map_cons, List.length_cons, emitCodes_succ]
    exact runCodes_cons hexec hrun

/-- The state a code byte enters, in terms of the length of its block. -/
theorem EntersBlock.of_codeByte {l : Nat} (h : EntersBlock s (BitVec.ofNat 8 (l + 1)))
    (hl : l ≤ 254) : s.decCnt.toNat = l ∧ s.decSt = if l < 254 then .block else .pblock := by
  obtain ⟨hfull, hshort⟩ := h
  obtain rfl | hlt := hl.eq_or_lt
  · obtain ⟨hst, hcnt⟩ := hfull rfl
    exact ⟨congrArg BitVec.toNat hcnt, hst⟩
  · have hnat : (BitVec.ofNat 8 (l + 1)).toNat = l + 1 := Nat.mod_eq_of_lt (by omega)
    obtain ⟨hst, hcnt⟩ := hshort fun heq => by
      rw [heq] at hnat
      have : (0xFF : Byte).toNat = 255 := rfl
      omega
    exact ⟨by omega, by rw [hst, if_pos hlt]⟩

/-! ### The end of a frame (R145) -/

/-- The code of the delimiter behind `n` outputs. -/
def endCode (cap n : Nat) : Code := if cap < n then .errOvfEnd else .decComplete

/-- The frame that put out `out` has ended in `t`. -/
structure FrameEnded (s₀ : State) (out : List Byte) (t : State) : Prop where
  idle : t.decSt = .idle
  len : t.decLen.toNat = if s₀.decCap.toNat < out.length then 0 else out.length
  ram : t.ram = s₀.ram.writeBytes s₀.decBase.toNat (out.take s₀.decCap.toNat)

theorem Decoded.push_delimiter (h : Decoded s₀ out s) (hst : s.decSt ≠ .idle) (hcnt : s.decCnt = 0) :
    ∃ t, exec (.decPush 0x00) s = .next t ∧ t.code = endCode s₀.decCap.toNat out.length ∧
      FrameEnded s₀ out t := by
  have hexec := exec_decPush_frameEnd hst hcnt
  have hlen := h.len
  have hovf := h.ovf
  unfold endCode
  by_cases hlt : s₀.decCap.toNat < out.length
  · rw [State.frameEnd, hovf, decide_eq_true hlt] at hexec
    exact ⟨_, hexec, (if_pos hlt).symm, rfl, (if_pos hlt).symm, h.ram⟩
  · rw [State.frameEnd, hovf, decide_eq_false hlt] at hexec
    refine ⟨_, hexec, (if_neg hlt).symm, rfl, ?_, h.ram⟩
    rw [if_neg hlt]
    exact hlen.trans (Nat.min_eq_left (Nat.not_lt.1 hlt))

end

/-! ### The rest of a frame, behind a code byte -/

/-- An encoding begins with a code byte. -/
theorem cobsEncode_eq_cons (p : List Byte) : ∃ c tail, cobsEncode p = c :: tail ∧ c ≠ 0x00 := by
  obtain ⟨body, hbody, hno⟩ := cobsEncodeIsDelimiterSafe p
  obtain ⟨hlen, -⟩ := length_cobsEncode_bounds p
  cases body with
  | nil =>
    rw [hbody] at hlen
    simp at hlen
  | cons c body =>
    exact ⟨c, body ++ [0x00], by rw [hbody, List.cons_append], (List.ne_of_not_mem_cons hno).symm⟩

/-- Pushing `bytes` from `s`, where `out` has been put out, puts out `p` too and ends the frame: the
last code is that of the delimiter, and the others are those of the outputs, with an OK at the code
byte behind each full block. -/
def EndsFrame (s₀ : State) (bytes : List Byte) (s : State) (out p : List Byte) : Prop :=
  ∃ mid t, runCodes (bytes.map Instr.decPush) s =
      some (mid ++ [endCode s₀.decCap.toNat (out ++ p).length], t) ∧
    mid.filter Code.isOutput = emitCodes s₀.decCap.toNat out.length p.length ∧
    (∀ c ∈ mid, c = .ok ∨ c.isOutput = true) ∧ FrameEnded s₀ (out ++ p) t

section
variable {s₀ s t : State} {out : List Byte}

/-- The outputs of one block in front of the rest of the frame. -/
theorem EndsFrame.of_literals {q bytes p : List Byte}
    (hrun : runCodes (q.map Instr.decPush) s =
      some (emitCodes s₀.decCap.toNat out.length q.length, t))
    (h : EndsFrame s₀ bytes t (out ++ q) p) : EndsFrame s₀ (q ++ bytes) s out (q ++ p) := by
  obtain ⟨mid, u, hrest, hfilter, hmid, hend⟩ := h
  refine ⟨emitCodes s₀.decCap.toNat out.length q.length ++ mid, u, ?_, ?_, fun c hc => ?_, ?_⟩
  · rw [List.map_append, List.append_assoc, ← List.append_assoc out]
    exact runCodes_append hrun hrest
  · rw [List.filter_append, filter_emitCodes, hfilter, List.length_append, List.length_append,
      emitCodes_add]
  · obtain hc | hc := List.mem_append.1 hc
    · obtain ⟨j, -, rfl⟩ := List.mem_map.1 hc
      exact .inr (isOutput_emitCode _ j)
    · exact hmid c hc
  · rwa [← List.append_assoc]

/-- The implicit zero between two blocks is one more output. -/
theorem EndsFrame.of_zero {b : Byte} {bytes p : List Byte} (hexec : exec (.decPush b) s = .next t)
    (hcode : t.code = emitCode s₀.decCap.toNat out.length)
    (h : EndsFrame s₀ bytes t (out ++ [0x00]) p) :
    EndsFrame s₀ (b :: bytes) s out (0x00 :: p) := by
  obtain ⟨mid, u, hrest, hfilter, hmid, hend⟩ := h
  rw [List.append_assoc, List.singleton_append] at hrest hend
  refine ⟨t.code :: mid, u, runCodes_cons hexec hrest, ?_, fun c hc => ?_, hend⟩
  · rw [hcode, List.filter_cons_of_pos (isOutput_emitCode _ _), hfilter, List.length_append]
    exact (emitCodes_succ _ _ _).symm
  · obtain rfl | hc := List.mem_cons.1 hc
    · exact .inr (hcode ▸ isOutput_emitCode _ _)
    · exact hmid c hc

/-- The code byte behind a full block reports OK. -/
theorem EndsFrame.of_ok {b : Byte} {bytes p : List Byte} (hexec : exec (.decPush b) s = .next t)
    (hcode : t.code = .ok) (h : EndsFrame s₀ bytes t out p) : EndsFrame s₀ (b :: bytes) s out p := by
  obtain ⟨mid, u, hrest, hfilter, hmid, hend⟩ := h
  refine ⟨t.code :: mid, u, runCodes_cons hexec hrest, ?_, fun c hc => ?_, hend⟩
  · rw [hcode, List.filter_cons_of_neg (by decide), hfilter]
  · obtain rfl | hc := List.mem_cons.1 hc
    · exact .inl hcode
    · exact hmid c hc

/-- Behind its first code byte, the encoding of `p` puts out `p` and ends the frame. -/
theorem Decoded.push_encoding
    (hdest : s₀.decBase.toNat + s₀.decCap.toNat ≤ s₀.params.ramSize) {p : List Byte} {c : Byte}
    {tail : List Byte} (hp : cobsEncode p = c :: tail) (h : Decoded s₀ out s)
    (henter : EntersBlock s c) : EndsFrame s₀ tail s out p := by
  induction p using payload_induction generalizing c tail s out with
  | last p hlen hp0 =>
    rw [cobsEncode_last hlen hp0] at hp
    obtain ⟨rfl, rfl⟩ := List.cons.inj hp
    obtain ⟨hcnt, hst⟩ := henter.of_codeByte hlen
    have hst' : s.decSt ≠ .idle := by rw [hst]; split <;> decide
    obtain ⟨t, hrun, ht, htst, htcnt⟩ := h.push_literals hdest hst' hp0 hcnt
    obtain ⟨u, hexec, hcode, hend⟩ := ht.push_delimiter (htst ▸ hst') htcnt
    have hlast : EndsFrame s₀ [0x00] t (out ++ p) [] := by
      refine ⟨[], u, ?_, rfl, nofun, by rwa [List.append_nil]⟩
      rw [List.append_nil, ← hcode]
      exact runCodes_cons hexec rfl
    simpa using hlast.of_literals hrun
  | elided q rest hlen hq ih =>
    rw [cobsEncode_elided rest hlen hq] at hp
    obtain ⟨rfl, rfl⟩ := List.cons.inj hp
    obtain ⟨hcnt, hst⟩ := henter.of_codeByte hlen.le
    rw [if_pos hlen] at hst
    obtain ⟨t, hrun, ht, htst, htcnt⟩ := h.push_literals hdest (by simp [hst]) hq hcnt
    obtain ⟨c', tail', hrest, hc'⟩ := cobsEncode_eq_cons rest
    obtain ⟨u, hemit, hu, -⟩ := ht.emit hdest 0x00
    have hexec := exec_decPush_afterShort (htst.trans hst) htcnt hc'
    rw [State.afterShort, hemit, orFault_ok] at hexec
    have htail := ih hrest (hu.enterBlock c' (emitCode s₀.decCap.toNat (out ++ q).length))
      (entersBlock_enterBlock u hc' _)
    rw [hrest]
    exact (htail.of_zero hexec rfl).of_literals hrun
  | full q b rest hlen hq ih =>
    rw [cobsEncode_full b rest hlen hq] at hp
    obtain ⟨rfl, rfl⟩ := List.cons.inj hp
    obtain ⟨hcnt, hst⟩ := henter.of_codeByte hlen.le
    rw [if_neg (by omega)] at hst
    obtain ⟨t, hrun, ht, htst, htcnt⟩ := h.push_literals hdest (by simp [hst]) hq hcnt
    obtain ⟨c', tail', hrest, hc'⟩ := cobsEncode_eq_cons (b :: rest)
    have hexec := exec_decPush_afterFull (htst.trans hst) htcnt hc'
    rw [State.afterFull] at hexec
    have htail := ih hrest (ht.enterBlock c' .ok) (entersBlock_enterBlock t hc' _)
    rw [hrest]
    exact (htail.of_ok hexec rfl).of_literals hrun

end

/-! ### A whole frame -/

/-- Pushing a whole encoding into a decoder in IDLE. -/
theorem push_cobsEncode {s : State} (hinv : DecInv s) (hst : s.decSt = .idle) (p : List Byte) :
    ∃ mid t, runCodes ((cobsEncode p).map Instr.decPush) s =
        some (.decStart :: mid ++ [endCode s.decCap.toNat p.length], t) ∧
      mid.filter Code.isOutput = emitCodes s.decCap.toNat 0 p.length ∧
      (∀ c ∈ mid, c = .ok ∨ c.isOutput = true) ∧ FrameEnded s p t := by
  obtain ⟨c, tail, hp, hc⟩ := cobsEncode_eq_cons p
  have hcleared : Decoded s [] { s with decLen := 0, decOvf := false } :=
    ⟨rfl, rfl, rfl, (Nat.zero_min _).symm, rfl, by simp [Memory.writeBytes]⟩
  obtain ⟨mid, t, hrun, hfilter, hmid, hend⟩ := (hcleared.enterBlock c .decStart).push_encoding
    hinv.destInRam hp (entersBlock_enterBlock _ hc _)
  refine ⟨mid, t, ?_, hfilter, hmid, hend⟩
  rw [hp]
  exact runCodes_cons (exec_decPush_frameStart hst hc) hrun

/-- The ended frame has written its output and nothing beyond. -/
theorem FrameEnded.sameRamOutside {s t : State} {out : List Byte} {n : Nat}
    (h : FrameEnded s out t) (hn : (out.take s.decCap.toNat).length ≤ n) :
    SameRamOutside s.decBase.toNat n s t := by
  intro x hx
  rw [State.ramByte, h.ram, Memory.read_writeBytes, if_neg (by omega)]
  rfl

/-- Settles O31: where the payload fits, every output is stored and the delimiter completes the
frame. -/
theorem decodeOfEncodeIsThePayload : Obligations.DecodeOfEncodeIsThePayload := by
  intro s p hinv hst hfits
  obtain ⟨mid, t, hrun, hfilter, hmid, hend⟩ := push_cobsEncode hinv hst p
  have hcode : endCode s.decCap.toNat p.length = .decComplete := if_neg (Nat.not_lt.2 hfits)
  rw [emitCodes_of_le (by omega)] at hfilter
  have htake : p.take s.decCap.toNat = p := List.take_of_length_le hfits
  refine ⟨_, t, hrun, rfl, hcode ▸ List.getLast?_concat, ?noError, hend.idle, ?length, ?payload, ?outside⟩
  case noError =>
    intro c hc
    rw [List.cons_append, List.mem_cons, List.mem_append, List.mem_singleton] at hc
    obtain rfl | hc | rfl := hc
    · rfl
    · obtain rfl | hout := hmid c hc
      · rfl
      · have hmem := List.mem_filter.2 ⟨hc, hout⟩
        rw [hfilter] at hmem
        rw [List.eq_of_mem_replicate hmem]
        rfl
    · rw [hcode]
      rfl
  case length => rw [hend.len, if_neg (Nat.not_lt.2 hfits)]
  case payload =>
    rw [hend.ram, htake]
    exact Memory.bytes_writeBytes _ _ _
  case outside => exact hend.sameRamOutside (by rw [htake])

/-- Settles O32: the first DEC_CAP outputs are stored, the others dropped, and the delimiter reports
the overflow end. -/
theorem overflowIsNeverReportedComplete : Obligations.OverflowIsNeverReportedComplete := by
  intro s p hinv hst hover
  obtain ⟨mid, t, hrun, hfilter, hmid, hend⟩ := push_cobsEncode hinv hst p
  have hcode : endCode s.decCap.toNat p.length = .errOvfEnd := if_pos hover
  rw [hcode] at hrun
  have hlen : (p.take s.decCap.toNat).length = s.decCap.toNat := by
    rw [List.length_take]
    omega
  refine ⟨_, t, hrun, rfl, List.getLast?_concat, ?notComplete, ?outputs, hend.idle, ?length, ?bytes, ?outside⟩
  case notComplete =>
    intro hc
    rw [List.cons_append, List.mem_cons, List.mem_append, List.mem_singleton] at hc
    obtain h | hc | h := hc
    · cases h
    · obtain h | h := hmid _ hc <;> cases h
    · cases h
  case outputs =>
    have hsplit : p.length = s.decCap.toNat + (p.length - s.decCap.toNat) := by omega
    rw [hsplit, emitCodes_add, emitCodes_of_le (by omega), emitCodes_of_ge (by omega)] at hfilter
    change List.filter Code.isOutput _ = _
    rw [List.cons_append, List.filter_cons_of_neg (by decide), List.filter_append, hfilter]
    exact List.append_nil _
  case length =>
    refine BitVec.eq_of_toNat_eq ?_
    rw [hend.len, if_pos hover]
    rfl
  case bytes =>
    have hwritten := Memory.bytes_writeBytes s.ram s.decBase.toNat (p.take s.decCap.toNat)
    rw [hlen] at hwritten
    rwa [hend.ram]
  case outside => exact hend.sameRamOutside hlen.le

end Sys2Proof.Machine
end

section
/-! PROOF. The host port (spec/20_memory.md R61 to R66, spec/60_exceptions.md R221): the bits of the
registers' read values, what each kind of access does, and the step that performs it. -/

namespace Sys2Proof.Machine

/-! ### The packed registers (R24, R25, R28, R32) -/

theorem statusWord_fields (s : State) :
    s.statusWord.extractLsb' 0 8 = s.code.toByte ∧ s.statusWord.getLsbD 8 = s.err ∧
      s.statusWord.getLsbD 9 = s.frmValid ∧ s.statusWord.extractLsb' 10 22 = 0 := by
  unfold State.statusWord
  refine ⟨?_, ?_, ?_, ?_⟩
  case refine_2 => simp only [BitVec.getLsbD_append]; simp
  case refine_3 => simp only [BitVec.getLsbD_append]; simp
  all_goals
    apply BitVec.eq_of_getLsbD_eq
    intro k hk
    rw [BitVec.getLsbD_extractLsb']
    interval_cases k <;> simp only [BitVec.getLsbD_append] <;> simp

theorem cfgWord_fields (s : State) :
    s.cfgWord.extractLsb' 0 3 = s.cfgWidth ∧ s.cfgWord.extractLsb' 3 5 = 0 ∧
      s.cfgWord.extractLsb' 8 8 = s.cfgChannels ∧ s.cfgWord.extractLsb' 16 16 = 0 := by
  unfold State.cfgWord
  refine ⟨?_, ?_, ?_, ?_⟩ <;>
  · apply BitVec.eq_of_getLsbD_eq
    intro k hk
    rw [BitVec.getLsbD_extractLsb']
    interval_cases k <;> simp only [BitVec.getLsbD_append] <;> simp

/-- The layout that ENC_STATE and DEC_STATE share: a flag, a count and a coded ST. -/
theorem stateWord_fields (f : Bool) (n : Byte) (st : BitVec 2) :
    let w : Word := (0 : BitVec 15) ++ BitVec.ofBool f ++ n ++ (0 : BitVec 6) ++ st
    w.extractLsb' 0 2 = st ∧ w.extractLsb' 2 6 = 0 ∧ w.extractLsb' 8 8 = n ∧ w.getLsbD 16 = f ∧
      w.extractLsb' 17 15 = 0 := by
  intro w
  refine ⟨?_, ?_, ?_, ?_, ?_⟩
  case refine_4 => simp only [w, BitVec.getLsbD_append]; simp
  all_goals
    apply BitVec.eq_of_getLsbD_eq
    intro k hk
    rw [BitVec.getLsbD_extractLsb']
    interval_cases k <;> simp only [w, BitVec.getLsbD_append] <;> simp

/-- Settles O46: the four packed registers by their bits; the others read as their field. -/
theorem registerFieldsStandInTheirBits : Obligations.RegisterFieldsStandInTheirBits := by
  refine ⟨⟨rfl, rfl, rfl, rfl⟩, ⟨rfl, rfl, rfl⟩, fun s => ?_⟩
  obtain ⟨hcode, herr, hvalid, hstatus⟩ := statusWord_fields s
  obtain ⟨hwidth, hcfg3, hchannels, hcfg16⟩ := cfgWord_fields s
  obtain ⟨hest, he2, heblk, hezero, he17⟩ := stateWord_fields s.encZero s.encBlk s.encSt.toBits
  obtain ⟨hdst, hd2, hdcnt, hdovf, hd17⟩ := stateWord_fields s.decOvf s.decCnt s.decSt.toBits
  exact ⟨hcode, herr, hvalid, hstatus, hwidth, hcfg3, hchannels, hcfg16, hest, he2, heblk, hezero,
    he17, hdst, hd2, hdcnt, hdovf, hd17, rfl, rfl, rfl, rfl, rfl, rfl, rfl, rfl, rfl, rfl, rfl, rfl,
    rfl, rfl, rfl, rfl, rfl⟩

/-! ### Register writes (R65) -/

/-- The bits of CFG that have storage. -/
theorem cfgWord_stored (v : Word) :
    ((0 : BitVec 16) ++ v.extractLsb' 8 8 ++ (0 : BitVec 5) ++ v.extractLsb' 0 3 : Word) =
      v &&& 0x0000FF07 := by
  apply BitVec.eq_of_getLsbD_eq
  intro k hk
  interval_cases k <;> simp only [BitVec.getLsbD_append, BitVec.getLsbD_and] <;> simp

theorem crcAcc_stored (v : Word) : (v.extractLsb' 0 16).setWidth 32 = v &&& 0x0000FFFF := by
  apply BitVec.eq_of_getLsbD_eq
  intro k hk
  interval_cases k <;> simp

/-- A write to a register shows in its own read value as R65 says. -/
theorem readReg_writeReg_same (s : State) (r : Reg) (v : Word) :
    (s.writeReg r v).readReg r = match r with
      | .cfg => v &&& 0x0000FF07
      | .crcAcc => v &&& 0x0000FFFF
      | .arg0 | .arg1 | .arg2 | .arg3 => v
      | _ => s.readReg r := by
  cases r with
  | cfg => exact cfgWord_stored v
  | crcAcc => exact crcAcc_stored v
  | _ => rfl

/-- A write to a register shows in no other. -/
theorem readReg_writeReg_ne (s : State) {r q : Reg} (v : Word) (h : q ≠ r) :
    (s.writeReg r v).readReg q = s.readReg q := by
  cases r with
  | cfg => cases q with | cfg => exact absurd rfl h | _ => rfl
  | arg0 => cases q with | arg0 => exact absurd rfl h | _ => rfl
  | arg1 => cases q with | arg1 => exact absurd rfl h | _ => rfl
  | arg2 => cases q with | arg2 => exact absurd rfl h | _ => rfl
  | arg3 => cases q with | arg3 => exact absurd rfl h | _ => rfl
  | crcAcc => cases q with | crcAcc => exact absurd rfl h | _ => rfl
  | _ => rfl

theorem writeReg_ram (s : State) (r : Reg) (v : Word) : (s.writeReg r v).ram = s.ram := by
  cases r <;> rfl

/-- Writing a value twice is writing it once. -/
theorem writeReg_writeReg (s : State) (r : Reg) (v : Word) (host : List Access) (resp : BusResult) :
    State.writeReg { s.writeReg r v with host := host, resp := resp } r v =
      { s.writeReg r v with host := host, resp := resp } := by
  cases r <;> rfl

/-! ### What an access in the window does (R62 to R65) -/

/-- An access of the wrong width or alignment for its window (R63, R64). -/
def BadAccess (off bits : Nat) : Prop :=
  (off < 0x10000 ∧ (bits ≠ 32 ∨ off % 4 ≠ 0)) ∨ (0x10000 ≤ off ∧ bits ≠ 8)

theorem Reg.offset_lt (r : Reg) : r.offset < ramWindow ∧ regAccessOk r.offset 32 = true := by
  cases r <;> decide

theorem regAccessOk_iff (off bits : Nat) :
    regAccessOk off bits = true ↔ bits = 32 ∧ off % 4 = 0 := by
  simp [regAccessOk]

theorem ramAccessOk_iff (bits : Nat) : ramAccessOk bits = true ↔ bits = 8 := by
  simp [ramAccessOk]

theorem atOffset_eq_none {off : Nat} (h : ∀ r : Reg, r.offset ≠ off) : Reg.atOffset off = none :=
  List.find?_eq_none.2 fun r _ => by simpa using h r

/-- The kinds of access that the window tells apart. -/
theorem access_cases (off bits : Nat) :
    BadAccess off bits ∨ (∃ r : Reg, off = r.offset ∧ bits = 32) ∨
      (off < 0x10000 ∧ off % 4 = 0 ∧ bits = 32 ∧ ∀ r : Reg, r.offset ≠ off) ∨
      ∃ a, off = ramWindow + a ∧ bits = 8 := by
  by_cases hbad : BadAccess off bits
  · exact .inl hbad
  unfold BadAccess at hbad
  by_cases hreg : off < 0x10000
  · by_cases hlisted : ∃ r : Reg, off = r.offset
    · obtain ⟨r, hr⟩ := hlisted
      exact .inr (.inl ⟨r, hr, by omega⟩)
    · exact .inr (.inr (.inl ⟨hreg, by omega, by omega, fun r hr => hlisted ⟨r, hr.symm⟩⟩))
  · exact .inr (.inr (.inr ⟨off - 0x10000, by simp only [ramWindow]; omega, by omega⟩))

section
variable (s : State) {off bits : Nat} (v : Word)

theorem hostRead_bad (h : BadAccess off bits) : hostRead off bits s = s.busError := by
  obtain ⟨hlt, hno⟩ | ⟨hge, hno⟩ := h
  · have hok : ¬regAccessOk off bits = true := by rw [regAccessOk_iff]; omega
    rw [hostRead, if_pos (show off < ramWindow from hlt), if_neg hok]
  · have hok : ¬ramAccessOk bits = true := by rwa [ramAccessOk_iff]
    rw [hostRead, if_neg (show ¬off < ramWindow from Nat.not_lt.2 hge), if_neg hok]

theorem hostWrite_bad (h : BadAccess off bits) : hostWrite off bits v s = .next s.busError := by
  obtain ⟨hlt, hno⟩ | ⟨hge, hno⟩ := h
  · have hok : ¬regAccessOk off bits = true := by rw [regAccessOk_iff]; omega
    rw [hostWrite, if_pos (show off < ramWindow from hlt), if_neg hok]
  · have hok : ¬ramAccessOk bits = true := by rwa [ramAccessOk_iff]
    rw [hostWrite, if_neg (show ¬off < ramWindow from Nat.not_lt.2 hge), if_neg hok]

theorem hostRead_register (r : Reg) :
    hostRead r.offset 32 s = s.answer .okay (s.readReg r) := by
  obtain ⟨hlt, hok⟩ := r.offset_lt
  simp only [hostRead, if_pos hlt, if_pos hok, atOffset_offset, Option.elim_some]

/-- A write to CMD runs its word (R62). -/
theorem hostWrite_cmd : hostWrite Reg.cmd.offset 32 v s = ackResult (runWord v s) := rfl

theorem hostWrite_register {r : Reg} (hr : r ≠ .cmd) :
    hostWrite r.offset 32 v s = .next (s.writeReg r v).acked := by
  cases r with
  | cmd => exact absurd rfl hr
  | _ => rfl

theorem hostRead_unlisted (hlt : off < 0x10000) (halign : off % 4 = 0)
    (hno : ∀ r : Reg, r.offset ≠ off) : hostRead off 32 s = s.answer .okay 0 := by
  have hok : regAccessOk off 32 = true := (regAccessOk_iff _ _).2 ⟨rfl, halign⟩
  rw [hostRead, if_pos (show off < ramWindow from hlt), if_pos hok, atOffset_eq_none hno]
  rfl

theorem hostWrite_unlisted (hlt : off < 0x10000) (halign : off % 4 = 0)
    (hno : ∀ r : Reg, r.offset ≠ off) : hostWrite off 32 v s = .next s.acked := by
  have hok : regAccessOk off 32 = true := (regAccessOk_iff _ _).2 ⟨rfl, halign⟩
  rw [hostWrite, if_pos (show off < ramWindow from hlt), if_pos hok, atOffset_eq_none hno]

theorem hostRead_ram (a : Nat) :
    hostRead (ramWindow + a) 8 s =
      s.answer .okay (if a < s.params.ramSize then (s.ramByte a).setWidth 32 else 0) := by
  have hge : ¬ramWindow + a < ramWindow := by omega
  simp only [hostRead, if_neg hge, ramAccessOk, beq_self_eq_true, if_true, Nat.add_sub_cancel_left]
  rfl

theorem hostWrite_ram {a : Nat} (ha : a < s.params.ramSize) :
    hostWrite (ramWindow + a) 8 v s =
      .next (State.acked { s with ram := s.ram.write a (v.extractLsb' 0 8) }) := by
  have hge : ¬ramWindow + a < ramWindow := by omega
  simp only [hostWrite, if_neg hge, ramAccessOk, beq_self_eq_true, if_true, Nat.add_sub_cancel_left,
    if_pos ha]

theorem hostWrite_past {a : Nat} (ha : s.params.ramSize ≤ a) :
    hostWrite (ramWindow + a) 8 v s = .next s.acked := by
  have hge : ¬ramWindow + a < ramWindow := by omega
  simp only [hostWrite, if_neg hge, ramAccessOk, beq_self_eq_true, if_true, Nat.add_sub_cancel_left,
    if_neg (Nat.not_lt.2 ha)]

end

/-! ### The step that performs an access (R61, R72) -/

section
variable {s : State} {rest : List Access}

theorem step_of_host {a : Access} (h : s.host = a :: rest) :
    step s = performAccess a { s with host := rest } := by
  unfold step hostStep
  rw [h]

theorem offsetOf_base_add (s : State) {off : Nat} (h : off < 0x20000) :
    s.offsetOf (s.params.base + off) = some off := by
  unfold State.offsetOf windowSize
  rw [Nat.add_sub_cancel_left]
  exact if_pos ⟨Nat.le_add_right _ _, h⟩

theorem offsetOf_eq_none {addr : Nat}
    (h : addr < s.params.base ∨ s.params.base + 0x20000 ≤ addr) : s.offsetOf addr = none := by
  unfold State.offsetOf windowSize
  exact if_neg (by omega)

theorem step_read {off bits : Nat} (h : s.host = .read (s.params.base + off) bits :: rest)
    (hoff : off < 0x20000) : step s = .next (hostRead off bits { s with host := rest }) := by
  rw [step_of_host h, performAccess, offsetOf_base_add { s with host := rest } hoff]

theorem step_write {off bits : Nat} {v : Word}
    (h : s.host = .write (s.params.base + off) bits v :: rest) (hoff : off < 0x20000) :
    step s = hostWrite off bits v { s with host := rest } := by
  rw [step_of_host h, performAccess, offsetOf_base_add { s with host := rest } hoff]

theorem Reg.offset_lt_window (r : Reg) : r.offset < 0x20000 :=
  r.offset_lt.1.trans (by decide)

end

/-! ### The obligations -/

/-- Settles O50: a silent host, and an address that has no offset in the window. -/
theorem silentOrForeignHostChangesNothing : Obligations.SilentOrForeignHostChangesNothing := by
  refine ⟨fun s h => ?_, fun s addr bits v a rest ha haddr h => ?_⟩
  · unfold step hostStep
    rw [h]
  · have hnone : State.offsetOf { s with host := rest } addr = none := offsetOf_eq_none haddr
    rw [step_of_host h]
    obtain rfl | rfl := ha <;> simp only [performAccess, hnone] <;> rfl

/-- Settles O47: both windows refuse the access alike. -/
theorem badAccessIsABusError : Obligations.BadAccessIsABusError := by
  intro s off bits a rest ha hbad h
  have hoff : off < 0x20000 := by omega
  have hbad' : BadAccess off bits := hbad.imp_right fun ⟨hge, _, hbits⟩ => ⟨hge, hbits⟩
  obtain rfl | ⟨v, rfl⟩ := ha
  · rw [step_read h hoff, hostRead_bad _ hbad']
    rfl
  · rw [step_write h hoff, hostWrite_bad _ _ hbad']
    rfl

/-- Settles O45: listed and unlisted offsets, written and read. -/
theorem registerWindowFollowsItsMap : Obligations.RegisterWindowFollowsItsMap := by
  refine ⟨fun s r v rest hr h => ?_, fun s off v rest hlt halign hno h => ?_, fun s r rest h => ?_,
    fun s off rest hlt halign hno h => ?_⟩
  · refine ⟨_, (step_write h r.offset_lt_window).trans (hostWrite_register _ v hr), ?_, rfl, ?_,
      fun q hq => ?_, fun x => ?_, writeReg_params _ r v⟩
    · cases r <;> rfl
    · refine (readReg_with_host_resp _ _ _ r).trans ((readReg_writeReg_same _ r v).trans ?_)
      cases r <;> rfl
    · refine (readReg_with_host_resp _ _ _ q).trans ((readReg_writeReg_ne _ v hq).trans ?_)
      exact readReg_with_host_resp s rest s.resp q
    · exact congrArg (Memory.read · x) (writeReg_ram _ r v)
  · rw [step_write h (by omega), hostWrite_unlisted _ v hlt halign hno]
    rfl
  · rw [step_read h r.offset_lt_window, hostRead_register]
    cases r <;> rfl
  · rw [step_read h (by omega), hostRead_unlisted _ hlt halign hno]
    rfl

/-- Settles O48: the byte is there, past the RAM, or the width is wrong. -/
theorem ramWindowIsByteWide : Obligations.RamWindowIsByteWide := by
  intro s a rest ha
  have hoff : ramWindow + a < 0x20000 := by simp only [ramWindow]; omega
  have hbad {bits : Nat} (hbits : bits ≠ 8) : BadAccess (ramWindow + a) bits :=
    .inr ⟨Nat.le_add_right _ _, hbits⟩
  have haddr : s.params.base + 0x10000 + a = s.params.base + (ramWindow + a) := Nat.add_assoc _ _ _
  rw [haddr]
  refine ⟨fun bits h => ?_, fun v h hlt => ?_, fun v h hge => ?_, fun bits v h hbits => ?_⟩
  · rw [step_read h hoff]
    by_cases hbits : bits = 8
    · rw [hbits, hostRead_ram, if_pos rfl]
      rfl
    · rw [hostRead_bad _ (hbad hbits), if_neg hbits]
      rfl
  · refine ⟨_, (step_write h hoff).trans (hostWrite_ram _ v hlt), ?_, fun x hx => ?_, fun r => ?_,
      rfl, rfl, rfl⟩
    · exact (Memory.read_write _ _ _ _).trans (if_pos rfl)
    · exact (Memory.read_write _ _ _ _).trans (if_neg (by omega))
    · cases r <;> rfl
  · exact (step_write h hoff).trans (hostWrite_past { s with host := rest } v hge)
  · rw [step_write h hoff, hostWrite_bad _ v (hbad hbits)]
    rfl

/-- Entering a cell at an address that is not listed, and removing it again. -/
theorem Memory.filter_enter {m : Memory} {x : Nat} (v : Byte) (h : ∀ c ∈ m, c.1 ≠ x) :
    (Memory.enter m x v).filter (fun c => c.1 != x) = m := by
  induction m with
  | nil => simp [Memory.enter]
  | cons c rest ih =>
    obtain ⟨a, b⟩ := c
    obtain ⟨ha, hrest⟩ := List.forall_mem_cons.1 h
    rw [Memory.enter]
    split
    · rw [List.filter_cons_of_neg (by simp)]
      exact List.filter_eq_self.2 fun c hc => bne_iff_ne.2 (h c hc)
    · rw [List.filter_cons, if_pos (bne_iff_ne.2 ha), ih hrest]

/-- Writing a byte twice to one address gives the same memory, cell by cell. -/
theorem Memory.write_write (m : Memory) (x : Nat) (v : Byte) :
    (m.write x v).write x v = m.write x v := by
  by_cases hv : v = unwrittenByte
  · simp only [Memory.write, if_pos hv, List.filter_filter, Bool.and_self]
  · simp only [Memory.write, if_neg hv]
    rw [Memory.filter_enter v fun c hc => bne_iff_ne.1 (List.mem_filter.1 hc).2]

/-- A write elsewhere than CMD completes, and done again changes nothing. -/
theorem hostWrite_repeat (s : State) {off : Nat} (bits : Nat) (v : Word) (hoff : off ≠ 0) :
    ∃ t, hostWrite off bits v s = .next t ∧ t.params = s.params ∧ t.host = s.host ∧
      ∀ rest, hostWrite off bits v { t with host := rest } = .next { t with host := rest } := by
  obtain hbad | ⟨r, rfl, rfl⟩ | ⟨hlt, halign, rfl, hno⟩ | ⟨a, rfl, rfl⟩ := access_cases off bits
  · exact ⟨_, hostWrite_bad s v hbad, rfl, rfl, fun rest => hostWrite_bad _ v hbad⟩
  · have hr : r ≠ .cmd := fun h => hoff (by rw [h]; rfl)
    refine ⟨_, hostWrite_register s v hr, writeReg_params s r v, by cases r <;> rfl, fun rest => ?_⟩
    rw [hostWrite_register _ v hr]
    exact congrArg (fun t => Host.Outcome.next (State.acked t)) (writeReg_writeReg s r v rest _)
  · exact ⟨_, hostWrite_unlisted s v hlt halign hno, rfl, rfl,
      fun rest => hostWrite_unlisted _ v hlt halign hno⟩
  · obtain hlt | hge := Nat.lt_or_ge a s.params.ramSize
    · refine ⟨_, hostWrite_ram s v hlt, rfl, rfl, fun rest => ?_⟩
      refine (hostWrite_ram _ v (by exact hlt)).trans ?_
      exact congrArg (fun m => Host.Outcome.next (State.acked { s with ram := m, host := rest }))
        (Memory.write_write s.ram a _)
    · exact ⟨_, hostWrite_past s v hge, rfl, rfl, fun rest => hostWrite_past _ v hge⟩

/-- Settles O49: a read only answers; a repeated write stores what is there already. -/
theorem readsAndRepeatedWritesAreIdempotent : Obligations.ReadsAndRepeatedWritesAreIdempotent := by
  refine ⟨fun s addr bits rest h => ?_, fun s addr bits v rest haddr h => ?_⟩
  · rw [step_of_host h, performAccess]
    split
    · exact ⟨_, rfl⟩
    · next off _ =>
      obtain ⟨b, d, hread⟩ := hostRead_eq off bits { s with host := rest }
      exact ⟨⟨b, d⟩, by rw [hread]; rfl⟩
  · by_cases hin : s.params.base ≤ addr ∧ addr < s.params.base + 0x20000
    · obtain ⟨off, rfl⟩ := Nat.exists_eq_add_of_le hin.1
      have hoff : off < 0x20000 := by omega
      obtain ⟨t, ht, hparams, hhost, hagain⟩ := hostWrite_repeat
        { s with host := .write (s.params.base + off) bits v :: rest } bits v
        (off := off) (by omega)
      refine ⟨t, (step_write h hoff).trans ht, ?_⟩
      have hhost' : t.host = .write (t.params.base + off) bits v :: rest := by
        rw [hparams]
        exact hhost
      exact (step_write hhost' hoff).trans (hagain rest)
    · have hout : addr < s.params.base ∨ s.params.base + 0x20000 ≤ addr := by omega
      obtain ⟨-, hforeign⟩ := silentOrForeignHostChangesNothing
      exact ⟨_, hforeign s addr bits v _ _ (.inr rfl) hout h,
        hforeign _ addr bits v _ _ (.inr rfl) hout rfl⟩

/-- Settles O8: CMD is at offset 0; an illegal word completes with ERR_ILLEGAL before the
acknowledgement. -/
theorem cmdWriteRunsItsWord : Obligations.CmdWriteRunsItsWord := by
  intro s w rest h
  have hstep : step s = ackResult (runWord w { s with host := rest }) :=
    (step_write h Reg.cmd.offset_lt_window).trans (hostWrite_cmd _ w)
  refine ⟨fun i hi => ?_, fun e he => ?_⟩
  · rw [hstep, runWord, hi]
  · rw [hstep, runWord_of_decode_eq_error he]
    exact ⟨_, rfl, rfl, complete_err_of_isError (by decide) s, rfl,
      fun r hr => (readReg_with_host_resp (s.complete .errIllegal) rest _ r).trans
        (readReg_complete hr), fun _ => rfl, rfl, rfl, rfl⟩

/-- Settles O9: the placed write is the next access, and taking it gives `s` back. -/
theorem stepRunsTheFetchWord : Obligations.StepRunsTheFetchWord := by
  intro s w i hi
  have hdecode : decode (BitVec.ofNat 32 (w % 2 ^ 32)) = .ok i := by
    unfold decodeTableWord at hi
    cases hw : decode (BitVec.ofNat 32 (w % 2 ^ 32)) with
    | ok j =>
      rw [hw] at hi
      exact congrArg _ (Option.some.inj hi)
    | error e =>
      rw [hw] at hi
      cases hi
  exact (cmdWriteRunsItsWord (s.withFetchWord 32 w) _ s.host rfl).1 i hdecode

end Sys2Proof.Machine
end

section
/-! PROOF. Which commands read CRC_ACC and CFG (spec/10_state.md R24, R27): other values put over
these registers pass through a command that does not use them. -/

namespace Sys2Proof.Machine

/-! ### Other values for CRC_ACC and CFG -/

/-- Values to put over CRC_ACC, CFG.WIDTH and CFG.CHANNELS; `none` leaves a register as it is. -/
structure Overlay where
  crc : Option Half
  width : Option (BitVec 3)
  channels : Option Byte

/-- A state with the values put over it. -/
def Overlay.on (o : Overlay) (s : State) : State :=
  { s with crcAcc := o.crc.getD s.crcAcc, cfgWidth := o.width.getD s.cfgWidth,
           cfgChannels := o.channels.getD s.cfgChannels }

theorem mapNext_ite (f : State → State) (p : Prop) [Decidable p] (r r' : Result) :
    Result.mapNext f (if p then r else r') =
      if p then Result.mapNext f r else Result.mapNext f r' :=
  apply_ite _ _ _ _

theorem mapNext_orFault {α : Type} (f : State → State) (x : Except Fault α) (k : α → Result) :
    Result.mapNext f (orFault x k) = orFault x fun v => Result.mapNext f (k v) := by
  cases x <;> rfl

theorem orFault_map {α β : Type} (g : α → β) (x : Except Fault α) (k : β → Result) :
    orFault (x.map g) k = orFault x fun v => k (g v) := by
  cases x <;> rfl

section
variable (o : Overlay) (s : State)

/-! ### The shared operations under an overlay -/

theorem finish_on (c : Code) : (o.on s).finish c = Result.mapNext o.on (s.finish c) := rfl

theorem memReadSpan_on (a n : Nat) : (o.on s).memReadSpan a n = s.memReadSpan a n := by
  induction n generalizing a with
  | zero => rfl
  | succ n ih =>
    rw [State.memReadSpan, State.memReadSpan, ih]
    rfl

theorem memWriteSpan_on (a : Nat) (vs : List Byte) :
    (o.on s).memWriteSpan a vs = (s.memWriteSpan a vs).map o.on := by
  induction vs generalizing s a with
  | nil => rfl
  | cons v vs ih =>
    rw [State.memWriteSpan, State.memWriteSpan, State.memWrite, State.memWrite]
    by_cases h : a < s.params.ramSize
    · rw [if_pos h, if_pos (show a < (o.on s).params.ramSize from h)]
      exact ih { s with ram := s.ram.write a v } (a + 1)
    · rw [if_neg h, if_neg (show ¬a < (o.on s).params.ramSize from h)]
      rfl

theorem scanZero_on (a m : Nat) : (o.on s).scanZero a m = s.scanZero a m := by
  induction m generalizing a with
  | zero => rfl
  | succ m ih =>
    rw [State.scanZero, State.scanZero, ih]
    rfl

theorem afterBlock_on : (o.on s).afterBlock = o.on s.afterBlock := by
  rw [State.afterBlock, State.afterBlock, apply_ite o.on, apply_ite o.on]
  rfl

theorem pullCode_on (l : Nat) (z : Bool) : (o.on s).pullCode l z = o.on (s.pullCode l z) := by
  unfold State.pullCode
  split
  · exact afterBlock_on o { s with encZero := z, encOut := BitVec.ofNat 8 (l + 1), encBlk := 0 }
  · rfl

theorem pullData_on (b : Byte) : (o.on s).pullData b = o.on (s.pullData b) := by
  by_cases hblk : s.encBlk - 1 = 0
  · rw [pullData_last b hblk, pullData_last (s := o.on s) b hblk]
    exact afterBlock_on o
      { s with encOut := b, encPtr := s.encPtr + 1, encRem := s.encRem - 1, encBlk := 0 }
  · rw [pullData_inside b hblk, pullData_inside (s := o.on s) b hblk]
    rfl

theorem enterBlock_on (b : Byte) : (o.on s).enterBlock b = o.on (s.enterBlock b) := by
  unfold State.enterBlock
  split <;> rfl

theorem emit_on (v : Byte) :
    (o.on s).emit v = (s.emit v).map fun r => (o.on r.1, r.2) := by
  unfold State.emit State.memWrite
  by_cases hroom : s.decOvf = false ∧ s.decLen < s.decCap
  · rw [if_pos hroom, if_pos (show (o.on s).decOvf = false ∧ (o.on s).decLen < (o.on s).decCap
      from hroom)]
    by_cases hlt : s.decBase.toNat + s.decLen.toNat < s.params.ramSize
    · rw [if_pos hlt, if_pos (show (o.on s).decBase.toNat + (o.on s).decLen.toNat <
        (o.on s).params.ramSize from hlt)]
      rfl
    · rw [if_neg hlt, if_neg (show ¬(o.on s).decBase.toNat + (o.on s).decLen.toNat <
        (o.on s).params.ramSize from hlt)]
      rfl
  · rw [if_neg hroom, if_neg (show ¬((o.on s).decOvf = false ∧ (o.on s).decLen < (o.on s).decCap)
      from hroom)]
    rfl

/-! ### The encoder and the decoder -/

theorem encStart_on : exec .encStart (o.on s) = Result.mapNext o.on (exec .encStart s) := by
  change execEncStart (o.on s) = Result.mapNext o.on (execEncStart s)
  rw [execEncStart, execEncStart, mapNext_ite]
  rfl

theorem encPull_on : exec .encPull (o.on s) = Result.mapNext o.on (exec .encPull s) := by
  change execEncPull (o.on s) = Result.mapNext o.on (execEncPull s)
  rw [execEncPull, execEncPull, show (o.on s).encSt = s.encSt from rfl]
  cases s.encSt with
  | done | term => rfl
  | code =>
    rw [mapNext_orFault, scanZero_on]
    simp only [pullCode_on, finish_on]
    rfl
  | data =>
    rw [mapNext_orFault]
    simp only [pullData_on, finish_on]
    rfl

theorem decReset_on : exec .decReset (o.on s) = Result.mapNext o.on (exec .decReset s) := by
  change execDecReset (o.on s) = Result.mapNext o.on (execDecReset s)
  rw [execDecReset, execDecReset, mapNext_ite]
  rfl

theorem frameStart_on (b : Byte) :
    (o.on s).frameStart b = Result.mapNext o.on (s.frameStart b) :=
  congrArg (State.finish · .decStart) (enterBlock_on o { s with decLen := 0, decOvf := false } b)

theorem frameEnd_on : (o.on s).frameEnd = Result.mapNext o.on s.frameEnd := by
  rw [State.frameEnd, State.frameEnd, mapNext_ite]
  rfl

theorem malformed_on : (o.on s).malformed = Result.mapNext o.on s.malformed := rfl

theorem literal_on (b : Byte) : (o.on s).literal b = Result.mapNext o.on (s.literal b) := by
  rw [State.literal, State.literal, emit_on, orFault_map, mapNext_orFault]
  rfl

theorem afterShort_on (b : Byte) :
    (o.on s).afterShort b = Result.mapNext o.on (s.afterShort b) := by
  rw [State.afterShort, State.afterShort, emit_on, orFault_map, mapNext_orFault]
  simp only [enterBlock_on, finish_on]

theorem afterFull_on (b : Byte) : (o.on s).afterFull b = Result.mapNext o.on (s.afterFull b) :=
  congrArg (State.finish · .ok) (enterBlock_on o s b)

theorem decPush_on (b : Byte) :
    exec (.decPush b) (o.on s) = Result.mapNext o.on (exec (.decPush b) s) := by
  change execDecPush b (o.on s) = Result.mapNext o.on (execDecPush b s)
  rw [execDecPush, execDecPush, show (o.on s).decSt = s.decSt from rfl,
    show (o.on s).decCnt = s.decCnt from rfl]
  cases s.decSt with
  | idle => simp only [mapNext_ite, frameStart_on, finish_on]
  | block => simp only [mapNext_ite, frameEnd_on, afterShort_on, malformed_on, literal_on]
  | pblock => simp only [mapNext_ite, frameEnd_on, afterFull_on, malformed_on, literal_on]

/-! ### The frame codec, where WIDTH stays -/

theorem frameWidth_on (hw : o.width = none) : (o.on s).frameWidth = s.frameWidth := by
  have hwidth : (o.on s).cfgWidth = s.cfgWidth := by
    rw [Overlay.on, hw]
    rfl
  rw [State.frameWidth, State.frameWidth, hwidth]

theorem frameBuild_on (hw : o.width = none) (tail : Nat → Bool → Half → List Byte) (c : Bool)
    (words : List Half) :
    (o.on s).frameBuild tail c words = Result.mapNext o.on (s.frameBuild tail c words) := by
  rw [State.frameBuild, State.frameBuild, frameWidth_on o s hw]
  cases s.frameWidth with
  | none => rfl
  | some w =>
    simp only [mapNext_ite, mapNext_orFault, memWriteSpan_on, orFault_map]
    rfl

theorem frameVerify_on (hw : o.width = none) (k : Nat) :
    (o.on s).frameVerify k = Result.mapNext o.on (s.frameVerify k) := by
  have hjudge (u : State) (data trailing : List Byte) :
      (o.on u).judgeFrame data trailing = Result.mapNext o.on (u.judgeFrame data trailing) := by
    rw [State.judgeFrame, State.judgeFrame, mapNext_ite]
    rfl
  rw [State.frameVerify, State.frameVerify, frameWidth_on o s hw]
  cases s.frameWidth with
  | none => rfl
  | some w =>
    simp only [mapNext_ite, mapNext_orFault, memReadSpan_on, ← hjudge]
    rfl

theorem frmWord_on (hw : o.width = none) (j : Byte) :
    exec (.frmWord j) (o.on s) = Result.mapNext o.on (exec (.frmWord j) s) := by
  change execFrmWord j (o.on s) = Result.mapNext o.on (execFrmWord j s)
  rw [execFrmWord, execFrmWord, frameWidth_on o s hw]
  cases s.frameWidth with
  | none => rfl
  | some w =>
    simp only [mapNext_ite, mapNext_orFault, memReadSpan_on]
    rfl

theorem channels_on (hn : o.channels = none) : (o.on s).channels = s.channels := by
  unfold State.channels Overlay.on
  rw [hn]
  rfl

/-! ### The CRC unit, where CRC_ACC stays -/

theorem crcUnit_on (hc : o.crc = none) {i : Instr}
    (hi : i = .crcInit ∨ (∃ b, i = .crcByte b) ∨ ∃ r, i = .crcSpan r) :
    exec i (o.on s) = Result.mapNext o.on (exec i s) := by
  obtain ⟨crc, width, channels⟩ := o
  obtain rfl : crc = none := hc
  obtain rfl | ⟨b, rfl⟩ | ⟨r, rfl⟩ := hi
  · rfl
  · rfl
  · change execCrcSpan r _ = Result.mapNext _ (execCrcSpan r s)
    rw [execCrcSpan, execCrcSpan, mapNext_ite, mapNext_orFault, memReadSpan_on]
    rfl

end

/-! ### Every command -/

/-- A command neither reads nor writes what is put over the registers it does not use: CRC_ACC is the
CRC unit's, WIDTH the frame commands', CHANNELS the two normal ones'. -/
theorem exec_on (o : Overlay) {i : Instr} (s : State) (hsoft : i.mnemonic ≠ .softReset)
    (hcrc : i.mnemonic ∈ [Mnemonic.crcInit, .crcByte, .crcSpan] → o.crc = none)
    (hwidth : i.mnemonic ∉ [Mnemonic.nop, .clrErr, .crcInit, .crcByte, .crcSpan, .encStart, .encPull,
      .decReset, .decPush] → o.width = none)
    (hchannels : i.mnemonic ∈ [Mnemonic.frmBuildNormal, .frmVerifyNormal] → o.channels = none) :
    exec i (o.on s) = Result.mapNext o.on (exec i s) := by
  cases i with
  | nop | clrErr => rfl
  | softReset => exact absurd rfl hsoft
  | crcInit => exact crcUnit_on o s (hcrc (by decide)) (.inl rfl)
  | crcByte b => exact crcUnit_on o s (hcrc (by simp [Instr.mnemonic])) (.inr (.inl ⟨b, rfl⟩))
  | crcSpan r => exact crcUnit_on o s (hcrc (by simp [Instr.mnemonic])) (.inr (.inr ⟨r, rfl⟩))
  | encStart => exact encStart_on o s
  | encPull => exact encPull_on o s
  | decReset => exact decReset_on o s
  | decPush b => exact decPush_on o s b
  | frmBuildShort c => exact frameBuild_on o s (hwidth (by simp [Instr.mnemonic])) _ c s.shortWords
  | frmBuildWrite c => exact frameBuild_on o s (hwidth (by simp [Instr.mnemonic])) _ c s.writeWords
  | frmBuildNormal c =>
    have hwords : (o.on s).normalWords = s.normalWords := by
      rw [State.normalWords, channels_on o s (hchannels (by simp [Instr.mnemonic]))]
      rfl
    change (o.on s).frameBuild alwaysTail c (o.on s).normalWords = _
    rw [hwords]
    exact frameBuild_on o s (hwidth (by simp [Instr.mnemonic])) alwaysTail c s.normalWords
  | frmVerifyShort => exact frameVerify_on o s (hwidth (by decide)) 2
  | frmVerifyWrite => exact frameVerify_on o s (hwidth (by decide)) 3
  | frmVerifyNormal =>
    change (o.on s).frameVerify ((o.on s).channels + 2) = _
    rw [channels_on o s (hchannels (by decide))]
    exact frameVerify_on o s (hwidth (by decide)) (s.channels + 2)
  | frmWord j => exact frmWord_on o s (hwidth (by simp [Instr.mnemonic])) j

/-- Settles O20: only the three CRC commands need CRC_ACC left alone. -/
theorem crcAccBelongsToTheCrcUnit : Obligations.CrcAccBelongsToTheCrcUnit := by
  intro i s x hi
  simp only [List.mem_cons, List.not_mem_nil, or_false, not_or] at hi
  obtain ⟨hinit, hbyte, hspan, hsoft⟩ := hi
  exact exec_on ⟨some x, none, none⟩ s hsoft (fun h => by simp_all) (fun _ => rfl) fun _ => rfl

/-- Settles O59: a command outside the frame codec passes both fields through, and one that is not of
the normal shape passes CHANNELS through. -/
theorem onlyFrameCommandsReadCfg : Obligations.OnlyFrameCommandsReadCfg := by
  refine ⟨fun i s w n hi => ?_, fun i s n hi => ?_⟩
  · exact exec_on ⟨none, some w, some n⟩ s (fun h => by simp [h] at hi) (fun _ => rfl)
      (fun h => absurd hi h) fun h => by
        obtain h | h : i.mnemonic = .frmBuildNormal ∨ i.mnemonic = .frmVerifyNormal := by simpa using h
        · simp [h] at hi
        · simp [h] at hi
  · simp only [List.mem_cons, List.not_mem_nil, or_false, not_or] at hi
    obtain ⟨hsoft, hbuild, hverify⟩ := hi
    exact exec_on ⟨none, none, some n⟩ s hsoft (fun _ => rfl) (fun _ => rfl) fun h => by simp_all

end Sys2Proof.Machine
end
